-- ==== Sys2Proof/Word.lean ====
section
/-! DEFINITION. The word types of the machine (00_scope.md R8, R12). -/

namespace Sys2Proof

/-- One byte: a register `V0`-`VF`, a timer, a memory cell (R8). -/
abbrev Byte := BitVec 8

/-- A 16-bit value: an instruction word, `PC`, `I`, a stack entry (R8). -/
abbrev Word := BitVec 16

/-- A 12-bit address operand `nnn` (30_encoding.md R71). -/
abbrev Addr := BitVec 12

/-- One nibble of an instruction word (30_encoding.md R71). -/
abbrev Nibble := BitVec 4

/-- The number of a register, a key or a stack entry: 0 to 15, so that none is ever out of range (10_state.md R20). -/
abbrev Idx := Fin 16

end Sys2Proof
end

