-- ==== Sys2Proof/Syntax.lean ====
section
/-! DEFINITION. The instructions: one constructor per row of spec/opcode_table.json, in the table's order
(30_encoding.md R75, R77). -/

namespace Sys2Proof

/-- An instruction with its operand fields (30_encoding.md R71, R73, R74). -/
inductive Instr where
  /-- `00E0` CLS (R183). -/
  | cls
  /-- `00EE` RET (R110). -/
  | ret
  /-- `1nnn` JP (R111). -/
  | jp (nnn : Addr)
  /-- `2nnn` CALL (R112). -/
  | call (nnn : Addr)
  /-- `3xkk` SE Vx, kk (R113). -/
  | seImm (x : Idx) (kk : Byte)
  /-- `4xkk` SNE Vx, kk (R114). -/
  | sneImm (x : Idx) (kk : Byte)
  /-- `5xy0` SE Vx, Vy (R115). -/
  | seReg (x y : Idx)
  /-- `6xkk` LD Vx, kk (R131). -/
  | ldImm (x : Idx) (kk : Byte)
  /-- `7xkk` ADD Vx, kk (R132). -/
  | addImm (x : Idx) (kk : Byte)
  /-- `8xy0` LD Vx, Vy (R133). -/
  | ldReg (x y : Idx)
  /-- `8xy1` OR Vx, Vy (R134). -/
  | orReg (x y : Idx)
  /-- `8xy2` AND Vx, Vy (R135). -/
  | andReg (x y : Idx)
  /-- `8xy3` XOR Vx, Vy (R136). -/
  | xorReg (x y : Idx)
  /-- `8xy4` ADD Vx, Vy (R144). -/
  | addReg (x y : Idx)
  /-- `8xy5` SUB Vx, Vy (R145). -/
  | subReg (x y : Idx)
  /-- `8xy6` SHR Vx; `y` is encoded and ignored (R146, R142). -/
  | shr (x y : Idx)
  /-- `8xy7` SUBN Vx, Vy (R147). -/
  | subn (x y : Idx)
  /-- `8xyE` SHL Vx; `y` is encoded and ignored (R148, R142). -/
  | shl (x y : Idx)
  /-- `9xy0` SNE Vx, Vy (R116). -/
  | sneReg (x y : Idx)
  /-- `Annn` LD I, nnn (R160). -/
  | ldI (nnn : Addr)
  /-- `Bnnn` LD I, V0+nnn: it writes `I` and does not jump (R117). -/
  | ldIV0 (nnn : Addr)
  /-- `Cxkk` RND Vx, kk (R150). -/
  | rnd (x : Idx) (kk : Byte)
  /-- `Dxy0`, a no-op (R189). -/
  | nopDxy0 (x y : Idx)
  /-- `Dxyn` DRW Vx, Vy, n with `n` from 1 to 15 (R184). -/
  | drw (x y : Idx) (n : Fin 16)
  /-- `Ex9E` SKP Vx (R200). -/
  | skp (x : Idx)
  /-- `ExA1` SKNP Vx (R201). -/
  | sknp (x : Idx)
  /-- `Fx07` LD Vx, DT (R203). -/
  | ldVxDt (x : Idx)
  /-- `Fx0A` LD Vx, K (R202). -/
  | ldK (x : Idx)
  /-- `Fx15` LD DT, Vx (R204). -/
  | ldDtVx (x : Idx)
  /-- `Fx18` LD ST, Vx (R205). -/
  | ldStVx (x : Idx)
  /-- `Fx1E` ADD I, Vx (R161). -/
  | addI (x : Idx)
  /-- `Fx29` LD F, Vx (R164). -/
  | ldF (x : Idx)
  /-- `Fx33` LD B, Vx (R165). -/
  | ldB (x : Idx)
  /-- `Fx55` LD [I], Vx (R166). -/
  | ldMemRegs (x : Idx)
  /-- `Fx65` LD Vx, [I] (R167). -/
  | ldRegsMem (x : Idx)
  /-- Any word no row above matches: the no-op (R77, R97). It keeps its word. -/
  | nop (w : Word)
deriving DecidableEq, Repr

end Sys2Proof
end

