-- ==== Sys2Proof/Decode.lean ====
section
/-! DEFINITION. The one instruction format, decoding (40_engine.md R93), dispatch (R94), the encoder, the table of recognised
patterns, and decoding from bytes. Decoding is total on words: no encoding is illegal (30_encoding.md R72, R78). -/

namespace Sys2Proof

/-- The four nibbles of a word (30_encoding.md R71). -/
structure Fields where
  n0 : Nibble
  n1 : Nibble
  n2 : Nibble
  n3 : Nibble
deriving DecidableEq, Repr

/-- R93: the split of a word into its nibbles. -/
def Fields.split (w : Word) : Fields :=
  { n0 := w.extractLsb' 12 4, n1 := w.extractLsb' 8 4, n2 := w.extractLsb' 4 4, n3 := w.extractLsb' 0 4 }

/-- R72: `w = n0:n1:n2:n3`. -/
def Fields.join (f : Fields) : Word := f.n0 ++ f.n1 ++ f.n2 ++ f.n3

/-- The address operand `nnn = n1:n2:n3`. -/
def Fields.nnn (f : Fields) : Addr := f.n1 ++ f.n2 ++ f.n3

/-- The immediate byte `kk = n2:n3`. -/
def Fields.kk (f : Fields) : Byte := f.n2 ++ f.n3

/-- The register number `x = n1`. -/
def Fields.x (f : Fields) : Idx := f.n1.toFin

/-- The register number `y = n2`. -/
def Fields.y (f : Fields) : Idx := f.n2.toFin

/-- The row count `n = n3`. -/
def Fields.n (f : Fields) : Fin 16 := f.n3.toFin

/-- R75, family 0: the whole word is compared; all else is the no-op. -/
def dispatch0 (f : Fields) : Instr :=
  if f.nnn = 0x0E0#12 then .cls
  else if f.nnn = 0x0EE#12 then .ret
  else .nop f.join

/-- R75, family 8: the operation is `n3`. -/
def dispatch8 (f : Fields) : Instr :=
  match f.n3 with
  | 0x0#4 => .ldReg f.x f.y
  | 0x1#4 => .orReg f.x f.y
  | 0x2#4 => .andReg f.x f.y
  | 0x3#4 => .xorReg f.x f.y
  | 0x4#4 => .addReg f.x f.y
  | 0x5#4 => .subReg f.x f.y
  | 0x6#4 => .shr f.x f.y
  | 0x7#4 => .subn f.x f.y
  | 0xE#4 => .shl f.x f.y
  | _ => .nop f.join

/-- R75, family E: the operation is `kk`. -/
def dispatchE (f : Fields) : Instr :=
  if f.kk = 0x9E#8 then .skp f.x
  else if f.kk = 0xA1#8 then .sknp f.x
  else .nop f.join

/-- R75, family F: the operation is `kk`. -/
def dispatchF (f : Fields) : Instr :=
  if f.kk = 0x07#8 then .ldVxDt f.x
  else if f.kk = 0x0A#8 then .ldK f.x
  else if f.kk = 0x15#8 then .ldDtVx f.x
  else if f.kk = 0x18#8 then .ldStVx f.x
  else if f.kk = 0x1E#8 then .addI f.x
  else if f.kk = 0x29#8 then .ldF f.x
  else if f.kk = 0x33#8 then .ldB f.x
  else if f.kk = 0x55#8 then .ldMemRegs f.x
  else if f.kk = 0x65#8 then .ldRegsMem f.x
  else .nop f.join

/-- R94: the handler whose pattern matches, by exact matching (R76); the no-op where none does (R77). -/
def dispatch (f : Fields) : Instr :=
  match f.n0 with
  | 0x0#4 => dispatch0 f
  | 0x1#4 => .jp f.nnn
  | 0x2#4 => .call f.nnn
  | 0x3#4 => .seImm f.x f.kk
  | 0x4#4 => .sneImm f.x f.kk
  | 0x5#4 => if f.n3 = 0x0#4 then .seReg f.x f.y else .nop f.join
  | 0x6#4 => .ldImm f.x f.kk
  | 0x7#4 => .addImm f.x f.kk
  | 0x8#4 => dispatch8 f
  | 0x9#4 => if f.n3 = 0x0#4 then .sneReg f.x f.y else .nop f.join
  | 0xA#4 => .ldI f.nnn
  | 0xB#4 => .ldIV0 f.nnn
  | 0xC#4 => .rnd f.x f.kk
  | 0xD#4 => if f.n3 = 0x0#4 then .nopDxy0 f.x f.y else .drw f.x f.y f.n
  | 0xE#4 => dispatchE f
  | _ => dispatchF f

/-- Decode and dispatch of one instruction word (R93, R94). -/
def decodeWord (w : Word) : Instr := dispatch (Fields.split w)

/-- Why bytes do not decode. No word is illegal (R78), so only a missing byte remains. -/
inductive DecodeError where
  /-- Fewer than the two bytes of an instruction (R70). -/
  | truncated
deriving DecidableEq, Repr

/-- Two bytes as a word, the first one most significant (20_memory.md R54). -/
def wordOfBytes (hi lo : Byte) : Word := hi ++ lo

/-- Bits 15:8 of a word, the byte at the lower address (R54). -/
def highByte (w : Word) : Byte := w.extractLsb' 8 8

/-- Bits 7:0 of a word, the byte at the higher address (R54). -/
def lowByte (w : Word) : Byte := w.extractLsb' 0 8

/-- Decoding from the bytes as memory holds them, with the bytes that are left (30_encoding.md R70, R79). -/
def decodeBytes : List Byte → Except DecodeError (Instr × List Byte)
  | hi :: lo :: rest => .ok (decodeWord (wordOfBytes hi lo), rest)
  | _ => .error .truncated

/-- The instruction word whose bits are the low `nbits` bits of `w`, every other bit 0. -/
def tableWord (nbits w : Nat) : Word := BitVec.ofNat 16 (w % 2 ^ nbits)

/-- What the decoder reads from an instruction whose bits are `w`, numbered as spec/opcode_table.json numbers them: laid out
big-endian (R54) and given to `decodeBytes`. -/
def decodeTableWord (nbits w : Nat) : Option Instr :=
  match decodeBytes [highByte (tableWord nbits w), lowByte (tableWord nbits w)] with
  | .ok (i, _) => some i
  | .error _ => none

/-- A register number as a nibble. -/
def nib (x : Fin 16) : Nibble := BitVec.ofFin x

/-- A word of format `nnn`. -/
def packNnn (n0 : Nibble) (nnn : Addr) : Word := n0 ++ nnn

/-- A word of format `xkk` or `x`. -/
def packXkk (n0 : Nibble) (x : Idx) (kk : Byte) : Word := n0 ++ nib x ++ kk

/-- A word of format `xy` or `xyn`. -/
def packXyn (n0 : Nibble) (x y : Idx) (n3 : Nibble) : Word := n0 ++ nib x ++ nib y ++ n3

/-- The word of an instruction, from the "encoding" column of spec/opcode_table.json. -/
def encode : Instr → Word
  | .cls => 0x00E0#16
  | .ret => 0x00EE#16
  | .jp nnn => packNnn 0x1#4 nnn
  | .call nnn => packNnn 0x2#4 nnn
  | .seImm x kk => packXkk 0x3#4 x kk
  | .sneImm x kk => packXkk 0x4#4 x kk
  | .seReg x y => packXyn 0x5#4 x y 0x0#4
  | .ldImm x kk => packXkk 0x6#4 x kk
  | .addImm x kk => packXkk 0x7#4 x kk
  | .ldReg x y => packXyn 0x8#4 x y 0x0#4
  | .orReg x y => packXyn 0x8#4 x y 0x1#4
  | .andReg x y => packXyn 0x8#4 x y 0x2#4
  | .xorReg x y => packXyn 0x8#4 x y 0x3#4
  | .addReg x y => packXyn 0x8#4 x y 0x4#4
  | .subReg x y => packXyn 0x8#4 x y 0x5#4
  | .shr x y => packXyn 0x8#4 x y 0x6#4
  | .subn x y => packXyn 0x8#4 x y 0x7#4
  | .shl x y => packXyn 0x8#4 x y 0xE#4
  | .sneReg x y => packXyn 0x9#4 x y 0x0#4
  | .ldI nnn => packNnn 0xA#4 nnn
  | .ldIV0 nnn => packNnn 0xB#4 nnn
  | .rnd x kk => packXkk 0xC#4 x kk
  | .nopDxy0 x y => packXyn 0xD#4 x y 0x0#4
  | .drw x y n => packXyn 0xD#4 x y (nib n)
  | .skp x => packXkk 0xE#4 x 0x9E#8
  | .sknp x => packXkk 0xE#4 x 0xA1#8
  | .ldVxDt x => packXkk 0xF#4 x 0x07#8
  | .ldK x => packXkk 0xF#4 x 0x0A#8
  | .ldDtVx x => packXkk 0xF#4 x 0x15#8
  | .ldStVx x => packXkk 0xF#4 x 0x18#8
  | .addI x => packXkk 0xF#4 x 0x1E#8
  | .ldF x => packXkk 0xF#4 x 0x29#8
  | .ldB x => packXkk 0xF#4 x 0x33#8
  | .ldMemRegs x => packXkk 0xF#4 x 0x55#8
  | .ldRegsMem x => packXkk 0xF#4 x 0x65#8
  | .nop w => w

/-- The two bytes of an instruction as memory holds them, big-endian (R54). -/
def encodeBytes (i : Instr) : List Byte := [highByte (encode i), lowByte (encode i)]

/-- One row of spec/opcode_table.json: the row selects the words `w` with `w AND mask = value`. -/
structure Pattern where
  mask : Word
  value : Word
deriving DecidableEq, Repr

/-- `w` matches the row. -/
def Pattern.matches (p : Pattern) (w : Word) : Bool := w &&& p.mask == p.value

/-- The rows of spec/opcode_table.json above its last, catch-all row: the 34 recognised patterns of R75 (with `Dxyn` at every
`n`) and the no-op row `Dxy0`. -/
def opcodeRows : List Pattern :=
  [⟨0xFFFF#16, 0x00E0#16⟩, ⟨0xFFFF#16, 0x00EE#16⟩, ⟨0xF000#16, 0x1000#16⟩, ⟨0xF000#16, 0x2000#16⟩, ⟨0xF000#16, 0x3000#16⟩,
   ⟨0xF000#16, 0x4000#16⟩, ⟨0xF00F#16, 0x5000#16⟩, ⟨0xF000#16, 0x6000#16⟩, ⟨0xF000#16, 0x7000#16⟩] ++
  [⟨0xF00F#16, 0x8000#16⟩, ⟨0xF00F#16, 0x8001#16⟩, ⟨0xF00F#16, 0x8002#16⟩, ⟨0xF00F#16, 0x8003#16⟩, ⟨0xF00F#16, 0x8004#16⟩,
   ⟨0xF00F#16, 0x8005#16⟩, ⟨0xF00F#16, 0x8006#16⟩, ⟨0xF00F#16, 0x8007#16⟩, ⟨0xF00F#16, 0x800E#16⟩, ⟨0xF00F#16, 0x9000#16⟩] ++
  [⟨0xF000#16, 0xA000#16⟩, ⟨0xF000#16, 0xB000#16⟩, ⟨0xF000#16, 0xC000#16⟩, ⟨0xF00F#16, 0xD000#16⟩, ⟨0xF000#16, 0xD000#16⟩,
   ⟨0xF0FF#16, 0xE09E#16⟩, ⟨0xF0FF#16, 0xE0A1#16⟩] ++
  [⟨0xF0FF#16, 0xF007#16⟩, ⟨0xF0FF#16, 0xF00A#16⟩, ⟨0xF0FF#16, 0xF015#16⟩, ⟨0xF0FF#16, 0xF018#16⟩, ⟨0xF0FF#16, 0xF01E#16⟩,
   ⟨0xF0FF#16, 0xF029#16⟩, ⟨0xF0FF#16, 0xF033#16⟩, ⟨0xF0FF#16, 0xF055#16⟩, ⟨0xF0FF#16, 0xF065#16⟩]

/-- The word matches no row above the catch-all (R77). -/
def unrecognised (w : Word) : Bool := opcodeRows.all (fun p => !p.matches w)

end Sys2Proof
end

