-- ==== Sys2Proof/Config.lean ====
section
/-! DEFINITION. What is fixed for the life of one machine: the construction parameters of 00_scope.md R9 and R10, as plain
data, and the free values: constants without a body, of which nothing can be proved. The default of each parameter is in
Sys2Proof/Machine/Defaults.lean. -/

namespace Sys2Proof

/-- `JUMP_TARGET_OFFSET`, which R10 limits to 0 and 2. -/
inductive JumpOffset where
  /-- 0: a jump lands on `nnn` (the spec's default). -/
  | zero
  /-- 2: a jump lands on `nnn + 2`. -/
  | two
deriving DecidableEq, Repr

/-- One flag function as an argument of the machine (R10; 42_alu.md R140; log entry 3), as plain data: a function from `α` (a
byte, or a pair of bytes) to a byte. -/
inductive FlagFun (α : Type) where
  /-- The textbook function, the spec's default. -/
  | textbook
  /-- A given function: at each listed operand the byte listed first for it, elsewhere the textbook one. -/
  | deviating (points : List (α × Byte))
  /-- A function of which nothing is known but R141. -/
  | uninterpreted
deriving DecidableEq, Repr

/-- The parameters of R9 and R10. -/
structure Config where
  /-- `DISP_W`, at least 1 (R9). -/
  dispW : Nat
  /-- `DISP_H`, at least 1 (R9). -/
  dispH : Nat
  /-- `IMPL_DOC_OPS`. -/
  implDocOps : Bool
  /-- `JUMP_TARGET_OFFSET`. -/
  jumpOffset : JumpOffset
  /-- `ALU_FLAG_WRITE_LAST`. -/
  aluFlagWriteLast : Bool
  /-- `ADD_FLAG`. -/
  addFlag : FlagFun (Byte × Byte)
  /-- `SUB_FLAG`. -/
  subFlag : FlagFun (Byte × Byte)
  /-- `SUBN_FLAG`. -/
  subnFlag : FlagFun (Byte × Byte)
  /-- `SHR_FLAG`. -/
  shrFlag : FlagFun Byte
  /-- `SHL_FLAG`. -/
  shlFlag : FlagFun Byte
  /-- `DRAW_CLEARS_VF`. -/
  drawClearsVf : Bool
  /-- `FONT_BASE`. -/
  fontBase : Addr
  /-- `FONT_STRIDE`. -/
  fontStride : Nat
deriving DecidableEq, Repr

/-- R9: "The spec requires `DISP_W >= 1` and `DISP_H >= 1`". -/
abbrev Config.Valid (c : Config) : Prop := 1 ≤ c.dispW ∧ 1 ≤ c.dispH

/-- FREE VALUE (log entry 4): the byte the host's random source delivers at the draw with this number (R11, R106, R150). -/
opaque Config.freeRnd : Nat → Byte

/-- FREE VALUE (log entry 3): `ADD_FLAG` where it is uninterpreted (R140). -/
opaque Config.freeAddFlag : Byte → Byte → Byte

/-- FREE VALUE (log entry 3): `SUB_FLAG` where it is uninterpreted, off the point R141 fixes (R140). -/
opaque Config.freeSubFlag : Byte → Byte → Byte

/-- FREE VALUE (log entry 3): `SUBN_FLAG` where it is uninterpreted (R140). -/
opaque Config.freeSubnFlag : Byte → Byte → Byte

/-- FREE VALUE (log entry 3): `SHR_FLAG` where it is uninterpreted (R140). -/
opaque Config.freeShrFlag : Byte → Byte

/-- FREE VALUE (log entry 3): `SHL_FLAG` where it is uninterpreted (R140). -/
opaque Config.freeShlFlag : Byte → Byte

end Sys2Proof
end

