-- ==== Sys2Proof/Machine/Defaults.lean ====
section
/-! DEFINITION. The default value of each construction parameter (00_scope.md R9, R10; log entries 2 and 3). -/

namespace Sys2Proof.Machine

/-- R9, R10: the parameters that give "this spec's machine". -/
def defaultConfig : Config :=
  { dispW := 64, dispH := 32, implDocOps := true, jumpOffset := .zero, aluFlagWriteLast := true,
    addFlag := .textbook, subFlag := .textbook, subnFlag := .textbook, shrFlag := .textbook, shlFlag := .textbook,
    drawClearsVf := true, fontBase := 0x000#12, fontStride := 5 }

end Sys2Proof.Machine
end

