-- ==== Sys2Proof/Machine/State.lean ====
section
/-! DEFINITION. The state of the machine (10_state.md, 20_memory.md R50) as plain data, its value after creation (R37), and the
reasons a step can stop. -/

namespace Sys2Proof.Machine

/-- A plane of pixels: rows from the top, each a list of columns from the left, `true` = on (10_state.md R31;
44_display.md R190). -/
abbrev Plane := List (List Bool)

/-- A plane of `h` rows of `w` pixels, all off. -/
def Plane.blank (w h : Nat) : Plane := List.replicate h (List.replicate w false)

/-- The bytes of memory that are not 0x00, by rising address: an address that is not listed holds 0x00, the value after
creation (R37; log entry 7). -/
abbrev Memory := List Host.Cell

/-- The fault register `FAULT` (R34). -/
structure FaultReg where
  /-- 0 = none; 1 to 6 = a fault kind of 60_exceptions.md R221. -/
  code : BitVec 3
  /-- `PC` of the instruction that faulted. -/
  pc : Word
  /-- The instruction word, 0 for a fetch fault. -/
  word : Word
deriving DecidableEq, Repr

/-- The fault kinds of 60_exceptions.md R221. A fault of this machine is a NEXT state with `FAULT` written (R222). -/
inductive FaultKind where
  /-- Raised by the fetch when `PC + 1 > 0xFFF` (R92). -/
  | fetchOutOfRange
  /-- Raised by `2nnn` when `SP = 15` (R112). -/
  | stackOverflow
  /-- Raised by `00EE` when `SP = 0` (R110). -/
  | stackUnderflow
  /-- Raised by `Dxyn` and `Fx65` when an address is above 0xFFF (R184, R167). -/
  | readOutOfRange
  /-- Raised by `Fx33` and `Fx55` when an address is above 0xFFF (R165, R166). -/
  | writeOutOfRange
  /-- Raised by `Ex9E` and `ExA1` when `V[x] > 0xF` (R200, R201). -/
  | keyIndexOutOfRange
deriving DecidableEq, Repr

/-- Everything the machine holds. -/
structure State where
  /-- The construction parameters, which nothing changes (R9, R10, R36; log entry 1). -/
  cfg : Config
  /-- `V0` to `VF` (R20, R21). -/
  v : Vector Byte 16
  /-- The index register `I` (R26). -/
  i : Word
  /-- The program counter `PC` (R23). -/
  pc : Word
  /-- The stack `S[0..15]` (R27). -/
  stack : Vector Word 16
  /-- The stack pointer `SP` (R28). -/
  sp : Fin 16
  /-- The delay timer `DT` (R29). -/
  dt : Byte
  /-- The sound timer `ST` (R29). -/
  st : Byte
  /-- The keypad flags `KEY[0..15]`, `true` = pressed (R30). -/
  key : Vector Bool 16
  /-- The visible display `DISP` (R31). -/
  disp : Plane
  /-- The scratch display `SCR` (R32). -/
  scr : Plane
  /-- The fault register (R34). -/
  fault : FaultReg
  /-- Memory `M[0x000..0xFFF]` (20_memory.md R50). -/
  mem : Memory
  /-- The model's own count of the random bytes drawn so far, the argument of `Config.freeRnd` (log entry 4). -/
  rndDraws : Nat
deriving DecidableEq, Repr

/-- A stop of the model that is no effect of the machine. The spec leaves none: every malformed-program condition is an
architectural fault, a next state that records `FAULT` (R220 to R222), so this type has no constructor and no step answers
with it (log entry 5). -/
inductive Fault where
deriving DecidableEq, Repr

/-- An instruction without a meaning. -/
inductive Refusal where
  /-- Raised by an arm of `exec` whose instruction has no meaning yet, safe; no arm of this model answers with it. -/
  | notModelled (mnemonic : String)
deriving DecidableEq, Repr

/-- The value after creation of a machine with the given parameters (R37, R250). -/
def State.create (c : Config) : State :=
  { cfg := c
    v := Vector.replicate 16 0x00#8
    i := 0x0000#16
    pc := 0x0200#16
    stack := Vector.replicate 16 0x0000#16
    sp := 0
    dt := 0x00#8
    st := 0x00#8
    key := Vector.replicate 16 false
    disp := Plane.blank c.dispW c.dispH
    scr := Plane.blank c.dispW c.dispH
    fault := { code := 0#3, pc := 0x0000#16, word := 0x0000#16 }
    mem := []
    rndDraws := 0 }

/-- The machine right after creation, the only reset (R250), with the spec's default parameters (00_scope.md R9, R10). -/
def State.reset : State := State.create defaultConfig

end Sys2Proof.Machine
end

