-- ==== Sys2Proof/Machine/Ops.lean ====
section
/-! DEFINITION. The named operations over the state: registers, stack, keypad, memory, planes, the program-counter action, and
taking a fault. Every read and write of a meaning goes through them. -/

namespace Sys2Proof.Machine

/-! ### Registers, stack, keypad (10_state.md) -/

/-- `V[x]` (R20). -/
def State.reg (s : State) (x : Idx) : Byte := s.v[x]

/-- `V[x] <- b` (R20). -/
def State.setReg (s : State) (x : Idx) (b : Byte) : State := { s with v := s.v.set x b }

/-- `V[0], ..., V[x]` in this order, the registers `Fx55` stores (R166). -/
def State.regsUpTo (s : State) (x : Idx) : List Byte := s.v.toList.take (x.val + 1)

/-- `V[k] <- b0; V[k + 1] <- b1; ...` in this order (R167). -/
def State.loadRegs (s : State) : List Byte → Nat → State
  | [], _ => s
  | b :: bs, k => State.loadRegs { s with v := s.v.setIfInBounds k b } bs (k + 1)

/-- `I <- a` (R26). -/
def State.setI (s : State) (a : Word) : State := { s with i := a }

/-- `S[k]` (R27). -/
def State.stackAt (s : State) (k : Fin 16) : Word := s.stack[k]

/-- `S[k] <- a` (R27). -/
def State.setStack (s : State) (k : Fin 16) (a : Word) : State := { s with stack := s.stack.set k a }

/-- `SP <- k` (R28). -/
def State.setSp (s : State) (k : Fin 16) : State := { s with sp := k }

/-- `DT <- b` (R29). -/
def State.setDt (s : State) (b : Byte) : State := { s with dt := b }

/-- `ST <- b` (R29). -/
def State.setSt (s : State) (b : Byte) : State := { s with st := b }

/-- `KEY[k]` (R30). -/
def State.keyAt (s : State) (k : Fin 16) : Bool := s.key[k]

/-- `KEY[k] <- p` (R30, 40_engine.md R102). -/
def State.setKey (s : State) (k : Fin 16) (p : Bool) : State := { s with key := s.key.set k p }

/-- `min { k | KEY[k] }` when some key is pressed (45_keys_timers.md R202). -/
def State.lowestKey (s : State) : Option (Fin 16) := (List.finRange 16).find? (fun k => s.keyAt k)

/-! ### Memory (20_memory.md) -/

/-- The last address of the address space (R50). -/
def lastAddr : Nat := 0xFFF

/-- What an address that is not listed reads as: the value after creation (10_state.md R37; log entry 7). -/
def unlistedByte : Byte := 0x00#8

/-- The byte at an address. -/
def Memory.read : Memory → Nat → Byte
  | [], _ => unlistedByte
  | (k, v) :: m, a => if a = k then v else Memory.read m a

/-- The memory with one byte changed, in canonical form: no entry equals what an unlisted address reads as. -/
def Memory.write : Memory → Nat → Byte → Memory
  | [], a, b => if b = unlistedByte then [] else [(a, b)]
  | (k, v) :: m, a, b =>
    if a < k then (if b = unlistedByte then (k, v) :: m else (a, b) :: (k, v) :: m)
    else if a = k then (if b = unlistedByte then m else (a, b) :: m)
    else (k, v) :: Memory.write m a b

/-- The bytes from `a` upwards, the first at `a`. -/
def Memory.writeBlock : Memory → Nat → List Byte → Memory
  | m, _, [] => m
  | m, a, b :: bs => Memory.writeBlock (m.write a b) (a + 1) bs

/-- The `n` bytes from `a` upwards, the first at `a`. -/
def Memory.readBlock (m : Memory) (a n : Nat) : List Byte := (List.range n).map (fun k => m.read (a + k))

/-- Every listed address is above `lo`, they rise strictly, and each holds a byte that is not what an unlisted address reads
as. -/
def Memory.wfAbove : Option Nat → Memory → Bool
  | _, [] => true
  | lo, (k, v) :: m => (lo.all (· < k)) && v != unlistedByte && k ≤ lastAddr && Memory.wfAbove (some k) m

/-- The canonical form: addresses rise strictly and lie in the address space (R50), no entry is 0x00. Equal memories are
equal lists. -/
def Memory.wf (m : Memory) : Bool := Memory.wfAbove none m

/-- `MemRead(a, 1)` (R52). -/
def memRead (a : Nat) (s : State) : Except FaultKind Byte :=
  if a > lastAddr then .error .readOutOfRange else .ok (s.mem.read a)

/-- `MemWrite(a, 1, b)` (R53). -/
def memWrite (a : Nat) (b : Byte) (s : State) : Except FaultKind State :=
  if a > lastAddr then .error .writeOutOfRange else .ok { s with mem := s.mem.write a b }

/-- `n` bytes (`n` at least 1) read from `a` upwards, every address checked before any effect (R52, R59;
60_exceptions.md R224). -/
def readBlock (a n : Nat) (s : State) : Except FaultKind (List Byte) :=
  if a + n - 1 > lastAddr then .error .readOutOfRange else .ok (s.mem.readBlock a n)

/-- The bytes (at least one) stored from `a` upwards, every address checked before any effect (R53, R59;
60_exceptions.md R224). -/
def storeBlock (a : Nat) (bs : List Byte) (s : State) : Except FaultKind State :=
  if a + bs.length - 1 > lastAddr then .error .writeOutOfRange else .ok { s with mem := s.mem.writeBlock a bs }

/-- `FetchWord(PC)`: big-endian, at any alignment (R54, R56). -/
def fetchWord (s : State) : Except FaultKind Word :=
  if s.pc.toNat + 1 > lastAddr then .error .fetchOutOfRange
  else .ok (wordOfBytes (s.mem.read s.pc.toNat) (s.mem.read (s.pc.toNat + 1)))

/-- An instruction word laid out big-endian at `a` (R54), where both of its bytes are in the address space. -/
def State.placeWord (s : State) (a : Nat) (w : Word) : State :=
  if a + 1 > lastAddr then s else { s with mem := s.mem.writeBlock a [highByte w, lowByte w] }

/-! ### Planes (10_state.md R31, R32) -/

/-- The pixel in row `r`, column `c`. -/
def Plane.get (p : Plane) (r c : Nat) : Bool := (p.getD r []).getD c false

/-- The plane with one pixel changed. -/
def Plane.set (p : Plane) (r c : Nat) (b : Bool) : Plane := p.modify r (fun row => row.set c b)

/-- `Seed()` (44_display.md R181). -/
def State.seed (s : State) : State := { s with scr := s.disp }

/-- `SCR <- p`, the pixels a clear or a draw leaves in the scratch buffer. -/
def State.setScr (s : State) (p : Plane) : State := { s with scr := p }

/-- `Publish()`: `DISP` becomes `SCR` in one step (R182). -/
def State.publish (s : State) : State := { s with disp := s.scr }

/-! ### The program-counter action (40_engine.md R96) -/

/-- What a handler returns (R95, R96). -/
inductive PcAction where
  /-- `NextInstruction`. -/
  | next
  /-- `SkipInstruction`. -/
  | skip
  /-- `JumpInstruction`, with the address of the next fetch. -/
  | jump (t : Word)
deriving DecidableEq, Repr

/-- The program counter after the action (R96). -/
def PcAction.target (act : PcAction) (pc : Word) : Word :=
  match act with
  | .next => pc + 2#16
  | .skip => pc + 4#16
  | .jump t => t

/-- `ApplyPcAction` (R96). -/
def State.applyPc (s : State) (act : PcAction) : State := { s with pc := act.target s.pc }

/-- A handler that completes: its writes take effect and its action is applied (R95, R96). -/
def complete (act : PcAction) (s : State) : Host.Outcome State Fault Refusal := .next (s.applyPc act)

/-- A skip that depends on a condition. -/
def skipIf (c : Bool) : PcAction := if c then .skip else .next

/-! ### Faults (60_exceptions.md) -/

/-- The code of a fault kind (R221). -/
def FaultKind.code : FaultKind → BitVec 3
  | .fetchOutOfRange => 1#3
  | .stackOverflow => 2#3
  | .stackUnderflow => 3#3
  | .readOutOfRange => 4#3
  | .writeOutOfRange => 5#3
  | .keyIndexOutOfRange => 6#3

/-- The state after `raise Fault(k)` in a Cycle that fetched `w`: `FAULT` is written and nothing else (R222). -/
def State.withFault (s : State) (k : FaultKind) (w : Word) : State :=
  { s with fault := { code := k.code, pc := s.pc, word := w } }

/-- `raise Fault(k)`: the Cycle ends with a next state (R222). There is no return from a fault (R223, R229). -/
def raiseFault (k : FaultKind) (w : Word) (s : State) : Host.Outcome State Fault Refusal := .next (s.withFault k w)

/-- The machine has faulted and is halted for good (R223). -/
def State.halted (s : State) : Bool := s.fault.code != 0#3

end Sys2Proof.Machine
end

