-- ==== Sys2Proof/Machine/Operands.lean ====
section
/-! DEFINITION. Operand forms and the values instructions compute from them: zero extension, nibbles, decimal digits, jump
targets, the font address, the random byte (30_encoding.md R73, R74). -/

namespace Sys2Proof.Machine

/-- `zext_16` of a byte (00_scope.md R12). -/
def zextByte (b : Byte) : Word := b.setWidth 16

/-- `zext_16` of an address operand (30_encoding.md R73). -/
def zextAddr (a : Addr) : Word := a.setWidth 16

/-- `b[3:0]`, as the number of a key or a digit. -/
def lowNibble (b : Byte) : Fin 16 := (b.extractLsb' 0 4).toFin

/-- A register number, or the number of a key, as a byte. -/
def byteOfIdx (k : Fin 16) : Byte := BitVec.ofNat 8 k.val

/-- `JUMP_TARGET_OFFSET` as a number (00_scope.md R10). -/
def jumpOffsetWord (o : JumpOffset) : Word :=
  match o with
  | .zero => 0#16
  | .two => 2#16

/-- `zext_16(nnn) + JUMP_TARGET_OFFSET`, where `1nnn` and `2nnn` land (41_control_flow.md R111, R112). -/
def State.jumpTarget (s : State) (nnn : Addr) : Word := zextAddr nnn + jumpOffsetWord s.cfg.jumpOffset

/-- The decimal digits of a byte, hundreds, tens, units, each as a binary value 0 to 9 (43_index_memory.md R165). -/
def decimalDigits (b : Byte) : List Byte :=
  [BitVec.ofNat 8 (b.toNat / 100), BitVec.ofNat 8 (b.toNat / 10 % 10), BitVec.ofNat 8 (b.toNat % 10)]

/-- `zext_16(FONT_BASE + FONT_STRIDE * digit)`, reduced to 16 bits (43_index_memory.md R164; log entry 9). -/
def State.glyphAddr (s : State) (digit : Fin 16) : Word :=
  BitVec.ofNat 16 (s.cfg.fontBase.toNat + s.cfg.fontStride * digit.val)

/-- The byte `RND` the host's random source delivers to this Cycle: a free value (42_alu.md R150; log entry 4). -/
def State.rndByte (s : State) : Byte := Config.freeRnd s.rndDraws

/-- The Cycle consumed one random byte (40_engine.md R106). -/
def State.consumeRnd (s : State) : State := { s with rndDraws := s.rndDraws + 1 }

end Sys2Proof.Machine
end

