-- ==== Sys2Proof/Machine/Flags.lean ====
section
/-! DEFINITION. The flag byte of each flagged operation (42_alu.md R138 to R141) and the write order of result and flag (R139).
`VF` is the machine's only flag (10_state.md R33). -/

namespace Sys2Proof.Machine

/-- The number of the flag register `VF` (10_state.md R21). -/
def vf : Idx := 0xF

/-- A flag byte: 1 or 0. -/
def flagByte (c : Bool) : Byte := if c then 1#8 else 0#8

/-- The byte that `points` gives for `a`, the first one listed. -/
def deviation {α : Type} [DecidableEq α] : List (α × Byte) → α → Option Byte
  | [], _ => none
  | (k, f) :: points, a => if k = a then some f else deviation points a

/-- The value of a flag function at `a`, from its textbook form and its free one (R10, R140). -/
def applyFlag {α : Type} [DecidableEq α] (r : FlagFun α) (textbook free : α → Byte) (a : α) : Byte :=
  match r with
  | .textbook => textbook a
  | .deviating points => (deviation points a).getD (textbook a)
  | .uninterpreted => free a

/-- `ADD_FLAG(a, b)` (R140): the textbook one is 1 exactly when `a + b > 255`. -/
def addFlag (r : FlagFun (Byte × Byte)) (a b : Byte) : Byte :=
  applyFlag r (fun p => flagByte (decide (p.1.toNat + p.2.toNat > 255))) (fun p => Config.freeAddFlag p.1 p.2) (a, b)

/-- `SUB_FLAG(a, b)` (R140): the textbook one is 1 exactly when `a >= b`; `SUB_FLAG(0x05, 0x0A) = 0` whichever it is, since
"Every instantiation must satisfy it" (R10, R141). -/
def subFlag (r : FlagFun (Byte × Byte)) (a b : Byte) : Byte :=
  if a = 0x05#8 ∧ b = 0x0A#8 then 0#8
  else applyFlag r (fun p => flagByte (decide (p.1.toNat ≥ p.2.toNat))) (fun p => Config.freeSubFlag p.1 p.2) (a, b)

/-- `SUBN_FLAG(a, b)`, called with `a = V[y]` and `b = V[x]` (R140): the textbook one is 1 exactly when `a >= b`. -/
def subnFlag (r : FlagFun (Byte × Byte)) (a b : Byte) : Byte :=
  applyFlag r (fun p => flagByte (decide (p.1.toNat ≥ p.2.toNat))) (fun p => Config.freeSubnFlag p.1 p.2) (a, b)

/-- `SHR_FLAG(a)` (R140): the textbook one is the bit shifted out, `a & 1`. -/
def shrFlag (r : FlagFun Byte) (a : Byte) : Byte := applyFlag r (fun b => b &&& 1#8) Config.freeShrFlag a

/-- `SHL_FLAG(a)` (R140): the textbook one is the bit shifted out, `(a >> 7) & 1`. -/
def shlFlag (r : FlagFun Byte) (a : Byte) : Byte := applyFlag r (fun b => (b >>> 7) &&& 1#8) Config.freeShlFlag a

/-- `WriteResultAndFlag(x, r, f)` (R139). -/
def State.writeResultAndFlag (s : State) (x : Idx) (r f : Byte) : State :=
  if s.cfg.aluFlagWriteLast then (s.setReg x r).setReg vf f else (s.setReg vf f).setReg x r

/-- `VF` at the end of a draw (44_display.md R184, R185, R188). -/
def State.writeCollision (s : State) (col : Bool) : State :=
  if col then s.setReg vf 1#8 else if s.cfg.drawClearsVf then s.setReg vf 0#8 else s

end Sys2Proof.Machine
end

