-- ==== Sys2Proof/Machine/Alu.lean ====
section
/-! DEFINITION. The ALU, the register loads and the random byte (42_alu.md). Every operand is read before any write
(00_scope.md R14); every instruction here returns `Next` and raises no fault. -/

namespace Sys2Proof.Machine

/-- R131 `6xkk`: load the immediate. -/
def execLdImm (x : Idx) (kk : Byte) (s : State) : Host.Outcome State Fault Refusal := complete .next (s.setReg x kk)

/-- R132 `7xkk`: add the immediate modulo 256, no flag. -/
def execAddImm (x : Idx) (kk : Byte) (s : State) : Host.Outcome State Fault Refusal :=
  complete .next (s.setReg x (s.reg x + kk))

/-- R133 `8xy0`: copy a register. -/
def execLdReg (x y : Idx) (s : State) : Host.Outcome State Fault Refusal := complete .next (s.setReg x (s.reg y))

/-- R134 `8xy1`: bitwise OR, no flag (R137). -/
def execOrReg (x y : Idx) (s : State) : Host.Outcome State Fault Refusal :=
  complete .next (s.setReg x (s.reg x ||| s.reg y))

/-- R135 `8xy2`: bitwise AND, no flag (R137). -/
def execAndReg (x y : Idx) (s : State) : Host.Outcome State Fault Refusal :=
  complete .next (s.setReg x (s.reg x &&& s.reg y))

/-- R136 `8xy3`: bitwise XOR, no flag (R137). -/
def execXorReg (x y : Idx) (s : State) : Host.Outcome State Fault Refusal :=
  complete .next (s.setReg x (s.reg x ^^^ s.reg y))

/-- R144 `8xy4`: add modulo 256, with `ADD_FLAG`. -/
def execAddReg (x y : Idx) (s : State) : Host.Outcome State Fault Refusal :=
  complete .next
    (s.writeResultAndFlag x (s.reg x + s.reg y) (addFlag s.cfg.addFlag (s.reg x) (s.reg y)))

/-- R145 `8xy5`: `Vx - Vy` modulo 256, with `SUB_FLAG`. -/
def execSubReg (x y : Idx) (s : State) : Host.Outcome State Fault Refusal :=
  complete .next
    (s.writeResultAndFlag x (s.reg x - s.reg y) (subFlag s.cfg.subFlag (s.reg x) (s.reg y)))

/-- R146 `8xy6`: `Vx` shifted right by one, with `SHR_FLAG`; `y` is ignored (R142). -/
def execShr (x _y : Idx) (s : State) : Host.Outcome State Fault Refusal :=
  complete .next (s.writeResultAndFlag x (s.reg x >>> 1) (shrFlag s.cfg.shrFlag (s.reg x)))

/-- R147 `8xy7`: `Vy - Vx` modulo 256, with `SUBN_FLAG(Vy, Vx)`. -/
def execSubn (x y : Idx) (s : State) : Host.Outcome State Fault Refusal :=
  complete .next
    (s.writeResultAndFlag x (s.reg y - s.reg x) (subnFlag s.cfg.subnFlag (s.reg y) (s.reg x)))

/-- R148 `8xyE`: `Vx` shifted left by one, with `SHL_FLAG`; `y` is ignored (R142). -/
def execShl (x _y : Idx) (s : State) : Host.Outcome State Fault Refusal :=
  complete .next (s.writeResultAndFlag x (s.reg x <<< 1) (shlFlag s.cfg.shlFlag (s.reg x)))

/-- R150 `Cxkk`: a random byte AND the immediate; the byte is consumed (40_engine.md R106). -/
def execRnd (x : Idx) (kk : Byte) (s : State) : Host.Outcome State Fault Refusal :=
  complete .next (s.consumeRnd.setReg x (s.rndByte &&& kk))

end Sys2Proof.Machine
end

