-- ==== Sys2Proof/Machine/ControlFlow.lean ====
section
/-! DEFINITION. Control flow and the no-op (41_control_flow.md; 40_engine.md R97; 44_display.md R189). -/

namespace Sys2Proof.Machine

/-- R110 `00EE`: return to the word after the call. -/
def execRet (s : State) : Host.Outcome State Fault Refusal :=
  if s.sp = 0 then raiseFault .stackUnderflow (encode .ret) s
  else complete (.jump (s.stackAt s.sp + 2#16)) (s.setSp (s.sp - 1))

/-- R111 `1nnn`: unconditional jump. -/
def execJp (nnn : Addr) (s : State) : Host.Outcome State Fault Refusal := complete (.jump (s.jumpTarget nnn)) s

/-- R112 `2nnn`: call, pushing the address of the call itself. -/
def execCall (nnn : Addr) (s : State) : Host.Outcome State Fault Refusal :=
  if s.sp = 15 then raiseFault .stackOverflow (encode (.call nnn)) s
  else complete (.jump (s.jumpTarget nnn)) ((s.setSp (s.sp + 1)).setStack (s.sp + 1) s.pc)

/-- R113 `3xkk`: skip if equal to the immediate. -/
def execSeImm (x : Idx) (kk : Byte) (s : State) : Host.Outcome State Fault Refusal :=
  complete (skipIf (s.reg x == kk)) s

/-- R114 `4xkk`: skip if not equal to the immediate. -/
def execSneImm (x : Idx) (kk : Byte) (s : State) : Host.Outcome State Fault Refusal :=
  complete (skipIf (s.reg x != kk)) s

/-- R115 `5xy0`: skip if the registers are equal. -/
def execSeReg (x y : Idx) (s : State) : Host.Outcome State Fault Refusal := complete (skipIf (s.reg x == s.reg y)) s

/-- R116 `9xy0`: skip if the registers differ. -/
def execSneReg (x y : Idx) (s : State) : Host.Outcome State Fault Refusal := complete (skipIf (s.reg x != s.reg y)) s

/-- R97: the no-op handler. -/
def noOp (s : State) : Host.Outcome State Fault Refusal := complete .next s

/-- R189 `Dxy0`: the no-op; no memory is read and nothing is published. -/
def execNopDxy0 (_x _y : Idx) (s : State) : Host.Outcome State Fault Refusal := noOp s

/-- R97, R77: every unrecognised word is the no-op. -/
def execNop (_w : Word) (s : State) : Host.Outcome State Fault Refusal := noOp s

end Sys2Proof.Machine
end

