-- ==== Sys2Proof/Machine/Display.lean ====
section
/-! DEFINITION. The framebuffer controller, the sprite rasterizer and the collision detector (44_display.md). -/

namespace Sys2Proof.Machine

/-- R183 `00E0`: the scratch buffer all off, then published. -/
def execCls (s : State) : Host.Outcome State Fault Refusal :=
  complete .next (s.setScr (Plane.blank s.cfg.dispW s.cfg.dispH)).publish

/-- What a draw fixes before its first pixel: the size of the display and the coordinates `cx`, `cy` (R184). -/
structure DrawAt where
  width : Nat
  height : Nat
  cx : Nat
  cy : Nat
deriving DecidableEq, Repr

/-- The scratch buffer and the collision flag while a draw goes on (R184). -/
structure Raster where
  plane : Plane
  col : Bool
deriving DecidableEq, Repr

/-- The column of sprite bit `bit`, by wraparound (R184, R186). -/
def DrawAt.px (d : DrawAt) (bit : Nat) : Nat := (d.cx + bit) % d.width

/-- The row of sprite row `row`, by wraparound (R184, R186). -/
def DrawAt.py (d : DrawAt) (row : Nat) : Nat := (d.cy + row) % d.height

/-- Sprite bit `bit` of a byte, bit 0 the leftmost, which is the most significant one (R187). -/
def spriteBit (b : Byte) (bit : Nat) : Bool := b.getLsbD (7 - bit)

/-- A sprite bit of 1 toggles its pixel, and collides when the pixel was on; a bit of 0 does nothing (R184, R188). -/
def plotBit (d : DrawAt) (row : Nat) (b : Byte) (a : Raster) (bit : Nat) : Raster :=
  if spriteBit b bit then
    { plane := a.plane.set (d.py row) (d.px bit) (!a.plane.get (d.py row) (d.px bit))
      col := a.col || a.plane.get (d.py row) (d.px bit) }
  else a

/-- One sprite row: bits 0 to 7 in this order (R186). -/
def plotByte (d : DrawAt) (row : Nat) (b : Byte) (a : Raster) : Raster := (List.range 8).foldl (plotBit d row b) a

/-- The sprite's bytes from row `row` on, in increasing order (R186). -/
def plotSprite (d : DrawAt) : Nat → List Byte → Raster → Raster
  | _, [], a => a
  | row, b :: bs, a => plotSprite d (row + 1) bs (plotByte d row b a)

/-- Where `Dxyn` draws: `cx = V[x]`, `cy = V[y]`, read before `VF` is written (R184). -/
def State.drawAt (s : State) (x y : Idx) : DrawAt :=
  { width := s.cfg.dispW, height := s.cfg.dispH, cx := (s.reg x).toNat, cy := (s.reg y).toNat }

/-- R184 `Dxyn`, `n != 0`: seed, XOR the sprite into the scratch buffer, publish, report the collision. -/
def execDrw (x y : Idx) (n : Fin 16) (s : State) : Host.Outcome State Fault Refusal :=
  match readBlock s.i.toNat n.val s with
  | .error k => raiseFault k (encode (.drw x y n)) s
  | .ok bytes =>
    let seeded := s.seed
    let drawn := plotSprite (s.drawAt x y) 0 bytes { plane := seeded.scr, col := false }
    complete .next (((seeded.setScr drawn.plane).publish).writeCollision drawn.col)

end Sys2Proof.Machine
end

