-- ==== Sys2Proof/Machine/Index.lean ====
section
/-! DEFINITION. The index register and the memory transfers (43_index_memory.md; 41_control_flow.md R117). -/

namespace Sys2Proof.Machine

/-- R160 `Annn`: load the index. -/
def execLdI (nnn : Addr) (s : State) : Host.Outcome State Fault Refusal := complete .next (s.setI (zextAddr nnn))

/-- R117 `Bnnn`: the index from `V0` plus an offset; `PC` is not redirected. -/
def execLdIV0 (nnn : Addr) (s : State) : Host.Outcome State Fault Refusal :=
  complete .next (s.setI (zextAddr nnn + zextByte (s.reg 0)))

/-- R161 `Fx1E`: add a register to the index modulo 2^16, no flag. -/
def execAddI (x : Idx) (s : State) : Host.Outcome State Fault Refusal :=
  complete .next (s.setI (s.i + zextByte (s.reg x)))

/-- R164 `Fx29`: the index of the sprite of the hex digit `Vx[3:0]`. -/
def execLdF (x : Idx) (s : State) : Host.Outcome State Fault Refusal :=
  if s.cfg.implDocOps then complete .next (s.setI (s.glyphAddr (lowNibble (s.reg x)))) else noOp s

/-- R165 `Fx33`: the three decimal digits of `Vx` at `I`, `I + 1`, `I + 2`. -/
def execLdB (x : Idx) (s : State) : Host.Outcome State Fault Refusal :=
  if s.cfg.implDocOps then
    match storeBlock s.i.toNat (decimalDigits (s.reg x)) s with
    | .error k => raiseFault k (encode (.ldB x)) s
    | .ok s' => complete .next s'
  else noOp s

/-- R166 `Fx55`: `V0` to `Vx` stored from `I` upwards; `I` is unchanged. -/
def execLdMemRegs (x : Idx) (s : State) : Host.Outcome State Fault Refusal :=
  match storeBlock s.i.toNat (s.regsUpTo x) s with
  | .error k => raiseFault k (encode (.ldMemRegs x)) s
  | .ok s' => complete .next s'

/-- R167 `Fx65`: `V0` to `Vx` loaded from `I` upwards; `I` is unchanged. -/
def execLdRegsMem (x : Idx) (s : State) : Host.Outcome State Fault Refusal :=
  match readBlock s.i.toNat (x.val + 1) s with
  | .error k => raiseFault k (encode (.ldRegsMem x)) s
  | .ok bs => complete .next (s.loadRegs bs 0)

end Sys2Proof.Machine
end

