-- ==== Sys2Proof/Machine/KeysTimers.lean ====
section
/-! DEFINITION. Keypad tests, the key wait and the timers (45_keys_timers.md). -/

namespace Sys2Proof.Machine

/-- R200 `Ex9E`: skip if the key numbered `Vx` is pressed. -/
def execSkp (x : Idx) (s : State) : Host.Outcome State Fault Refusal :=
  if s.cfg.implDocOps then
    if (s.reg x).toNat > 0xF then raiseFault .keyIndexOutOfRange (encode (.skp x)) s
    else complete (skipIf (s.keyAt (lowNibble (s.reg x)))) s
  else noOp s

/-- R201 `ExA1`: skip if the key numbered `Vx` is not pressed. -/
def execSknp (x : Idx) (s : State) : Host.Outcome State Fault Refusal :=
  if s.cfg.implDocOps then
    if (s.reg x).toNat > 0xF then raiseFault .keyIndexOutOfRange (encode (.sknp x)) s
    else complete (skipIf (!s.keyAt (lowNibble (s.reg x)))) s
  else noOp s

/-- R202 `Fx0A`: the lowest pressed key, or `PC` unchanged while no key is pressed. -/
def execLdK (x : Idx) (s : State) : Host.Outcome State Fault Refusal :=
  if s.cfg.implDocOps then
    match s.lowestKey with
    | some k => complete .next (s.setReg x (byteOfIdx k))
    | none => complete (.jump s.pc) s
  else noOp s

/-- R203 `Fx07`: read the delay timer. -/
def execLdVxDt (x : Idx) (s : State) : Host.Outcome State Fault Refusal := complete .next (s.setReg x s.dt)

/-- R204 `Fx15`: set the delay timer. -/
def execLdDtVx (x : Idx) (s : State) : Host.Outcome State Fault Refusal := complete .next (s.setDt (s.reg x))

/-- R205 `Fx18`: set the sound timer. -/
def execLdStVx (x : Idx) (s : State) : Host.Outcome State Fault Refusal := complete .next (s.setSt (s.reg x))

end Sys2Proof.Machine
end

