-- ==== Sys2Proof/Machine/Step.lean ====
section
/-! DEFINITION. One Cycle (40_engine.md R90). -/

namespace Sys2Proof.Machine

/-- R90: nothing on a faulted machine (R91), else fetch (R92), decode and dispatch (R93, R94), execute and apply the
program-counter action (R95, R96). A fetch fault records the word 0 (R92). -/
def step (s : State) : Host.Outcome State Fault Refusal :=
  if s.halted then .next s
  else
    match fetchWord s with
    | .error k => raiseFault k 0x0000#16 s
    | .ok w => exec (decodeWord w) s

/-- The instruction whose bits are `w` (numbered as spec/opcode_table.json numbers them), stored big-endian at `PC`, where
`step` fetches its next instruction (log entry 8). -/
def State.withFetchWord (s : State) (nbits w : Nat) : State := s.placeWord s.pc.toNat (tableWord nbits w)

end Sys2Proof.Machine
end

