-- ==== Sys2Proof/Machine/HostOps.lean ====
section
/-! DEFINITION. The host's operations (40_engine.md R100 to R109). Each is one atomic transition between two Cycles; `Event`
lists everything that can happen to a machine after its creation, and the host chooses the order (70_reset_and_hazards.md
R259). -/

namespace Sys2Proof.Machine

/-- R108 Create(`DISP_W`, `DISP_H`), with the default of every other parameter (00_scope.md R10). -/
def create (w h : Nat) : State := State.create { defaultConfig with dispW := w, dispH := h }

/-- The lowest address of a program image (00_scope.md R8, `PROG_BASE`). -/
def progBase : Nat := 0x200

/-- How many bytes of an image fit, `0x1000 - 0x200` (R101). -/
def maxImage : Nat := 0xE00

/-- R101 Load: the image from 0x200 upwards, silently truncated; no other state is written. -/
def load (image : List Byte) (s : State) : State :=
  { s with mem := s.mem.writeBlock progBase (image.take maxImage) }

/-- R102 KeySet: `KEY[k] <- p`. -/
def keySet (k : Fin 16) (p : Bool) (s : State) : State := s.setKey k p

/-- R103 DisplayRead: the visible buffer, never the scratch buffer. -/
def displayRead (s : State) : Plane := s.disp

/-- One decrement of a timer, which stays at 0 (R104). -/
def tickTimer (t : Byte) : Byte := if t = 0#8 then t else t - 1#8

/-- R104 TimerTick: both timers. -/
def timerTick (s : State) : State := (s.setDt (tickTimer s.dt)).setSt (tickTimer s.st)

/-- The timer an operation selects (R105). -/
inductive TimerSel where
  /-- `DT`. -/
  | delay
  /-- `ST`. -/
  | sound
deriving DecidableEq, Repr

/-- R105 TimerGet. -/
def timerGet (t : TimerSel) (s : State) : Byte :=
  match t with
  | .delay => s.dt
  | .sound => s.st

/-- R105 TimerSet. -/
def timerSet (t : TimerSel) (b : Byte) (s : State) : State :=
  match t with
  | .delay => s.setDt b
  | .sound => s.setSt b

/-- R107 FaultRead. -/
def faultRead (s : State) : FaultReg := s.fault

/-- Everything that can happen to a machine (R100, R109). -/
inductive Event where
  /-- Load (R101). -/
  | load (image : List Byte)
  /-- Cycle (R90). -/
  | cycle
  /-- KeySet (R102). -/
  | keySet (k : Fin 16) (p : Bool)
  /-- DisplayRead (R103). -/
  | displayRead
  /-- TimerTick (R104). -/
  | timerTick
  /-- TimerGet (R105). -/
  | timerGet (t : TimerSel)
  /-- TimerSet (R105). -/
  | timerSet (t : TimerSel) (b : Byte)
  /-- FaultRead (R107). -/
  | faultRead
deriving DecidableEq, Repr

/-- The transition of one event. A read returns its value and writes no state. -/
def Event.apply (e : Event) (s : State) : Host.Outcome State Fault Refusal :=
  match e with
  | .load image => .next (Sys2Proof.Machine.load image s)
  | .cycle => step s
  | .keySet k p => .next (Sys2Proof.Machine.keySet k p s)
  | .displayRead => .next s
  | .timerTick => .next (Sys2Proof.Machine.timerTick s)
  | .timerGet _ => .next s
  | .timerSet t b => .next (Sys2Proof.Machine.timerSet t b s)
  | .faultRead => .next s

/-- A sequence of events, in the one total order the host chooses (R100). -/
def runEvents : List Event → State → Host.Outcome State Fault Refusal
  | [], s => .next s
  | e :: es, s =>
    match e.apply s with
    | .next s' => runEvents es s'
    | .fault r => .fault r
    | .refused r => .refused r

end Sys2Proof.Machine
end

