-- ==== Sys2Proof/WellFormed.lean ====
section
/-! DEFINITION. Which instructions are the reading of a word: the operand checks the types of the fields do not already make.
Field widths make every register number, immediate and address legal (30_encoding.md R74); two constructors carry a check. -/

namespace Sys2Proof

/-- `DRW` has `n` from 1 to 15, since `Dxy0` is a no-op of its own (44_display.md R184, R189); the catch-all `NOP` carries a
word that no other row matches (30_encoding.md R77). Every other instruction is well formed. -/
def wellFormed : Instr → Bool
  | .drw _ _ n => n != 0
  | .nop w => unrecognised w
  | .cls | .ret | .jp _ | .call _ | .seImm _ _ | .sneImm _ _ | .seReg _ _ | .ldImm _ _ | .addImm _ _ => true
  | .ldReg _ _ | .orReg _ _ | .andReg _ _ | .xorReg _ _ | .addReg _ _ | .subReg _ _ | .shr _ _ | .subn _ _ => true
  | .shl _ _ | .sneReg _ _ | .ldI _ | .ldIV0 _ | .rnd _ _ | .nopDxy0 _ _ | .skp _ | .sknp _ | .ldVxDt _ => true
  | .ldK _ | .ldDtVx _ | .ldStVx _ | .addI _ | .ldF _ | .ldB _ | .ldMemRegs _ | .ldRegsMem _ => true

end Sys2Proof
end

