-- ==== Sys2Proof/Safety.lean ====
section
/-! DEFINITION. What statements about the machine are said in: its invariant, the frames, the table of faults, the table of
register writers, and the count of sprite hits. No step uses anything of this file. -/

namespace Sys2Proof.Machine

/-- A plane of `h` rows of `w` pixels (10_state.md R31). -/
abbrev Plane.Shaped (w h : Nat) (p : Plane) : Prop := p.length = h ∧ ∀ row ∈ p, row.length = w

/-- No fault is recorded: the machine runs (60_exceptions.md R223). -/
abbrev State.Running (s : State) : Prop := s.fault.code = 0#3

/-- What holds of every machine between two events. -/
structure State.Inv (s : State) : Prop where
  /-- The display has at least one pixel (00_scope.md R9). -/
  cfgValid : s.cfg.Valid
  /-- Memory is in its canonical form, inside the address space (20_memory.md R50). -/
  memWf : s.mem.wf = true
  /-- `DISP` has the dimensions fixed at creation (10_state.md R31). -/
  dispShaped : s.disp.Shaped s.cfg.dispW s.cfg.dispH
  /-- `SCR = DISP` between Cycles (R32). -/
  scrEqDisp : s.scr = s.disp
  /-- `PC` is at most 0x1002 and so never wraps (R25). -/
  pcBound : s.pc.toNat ≤ 0x1002
  /-- Every return address is that of a call that was fetched (R25, R110). -/
  stackBound : ∀ k, (s.stackAt k).toNat ≤ 0xFFE
  /-- `S[0]` is never written (R28). -/
  stackZero : s.stackAt 0 = 0#16
  /-- `FAULT.code` is 0 or a fault kind (R34). -/
  faultCode : s.fault.code.toNat ≤ 6
  /-- A machine that faulted still stands at the instruction that faulted (60_exceptions.md R222, R223). -/
  faultPc : s.fault.code ≠ 0#3 → s.fault.pc = s.pc

/-- Every byte of memory reads as before. -/
def SameBytes (s t : State) : Prop := ∀ a, t.mem.read a = s.mem.read a

/-- `t` is `s` with `V[x] = b` and `PC` past one word, and nothing else changed: no other register, no byte of memory. -/
def RegResult (s t : State) (x : Idx) (b : Byte) : Prop :=
  (∀ r, t.reg r = if r = x then b else s.reg r) ∧ t.pc = s.pc + 2#16 ∧
    t = { s with v := t.v, pc := t.pc } ∧ SameBytes s t

/-- `t` is `s` after a flagged operation with result `b` and flag `f` (42_alu.md R138, R139): the two writes in the order the
machine has, `PC` past one word, and nothing else changed. -/
def FlagResult (s t : State) (x : Idx) (b f : Byte) : Prop :=
  (∀ r, t.reg r =
    if s.cfg.aluFlagWriteLast then (if r = 15 then f else if r = x then b else s.reg r)
    else (if r = x then b else if r = 15 then f else s.reg r)) ∧
    t.pc = s.pc + 2#16 ∧ t = { s with v := t.v, pc := t.pc } ∧ SameBytes s t

/-- The value at `a` of the flag function `r`, where its textbook form gives `textbook` and its uninterpreted form `free`
(00_scope.md R10, log entry 3). -/
def flagAt {α : Type} [DecidableEq α] (r : FlagFun α) (a : α) (textbook free : Byte) : Byte :=
  match r with
  | .textbook => textbook
  | .deviating points => ((points.find? fun p => p.1 = a).map Prod.snd).getD textbook
  | .uninterpreted => free

/-- `t` is `s` with `I = a` and `PC` past one word, and nothing else changed. -/
def IndexResult (s t : State) (a : Word) : Prop :=
  t = { s with i := a, pc := s.pc + 2#16 } ∧ (∀ r, t.reg r = s.reg r) ∧ SameBytes s t

/-- The creation table of 10_state.md R37 for a machine with the parameters `c`; `rndDraws` is the model's own (log entry 4). -/
def CreatedWith (c : Config) (s : State) : Prop :=
  s.cfg = c ∧ (∀ a, s.mem.read a = 0x00#8) ∧ (∀ r, s.reg r = 0x00#8) ∧ s.i = 0x0000#16 ∧ s.pc = 0x0200#16 ∧
    (∀ k, s.stackAt k = 0x0000#16) ∧ s.sp = 0 ∧ s.dt = 0x00#8 ∧ s.st = 0x00#8 ∧ (∀ k, s.keyAt k = false) ∧
    s.disp.Shaped c.dispW c.dispH ∧ (∀ r col, s.disp.get r col = false) ∧
    s.scr.Shaped c.dispW c.dispH ∧ (∀ r col, s.scr.get r col = false) ∧
    s.fault = { code := 0#3, pc := 0x0000#16, word := 0x0000#16 } ∧ s.rndDraws = 0

/-- The faults an instruction raises and when, the rows of 60_exceptions.md R221 below the fetch fault. -/
def faultCondition (i : Instr) (s : State) : Option FaultKind :=
  match i with
  | .ret => if s.sp.val = 0 then some .stackUnderflow else none
  | .call _ => if s.sp.val = 15 then some .stackOverflow else none
  | .drw _ _ n => if s.i.toNat + n.val - 1 > 0xFFF then some .readOutOfRange else none
  | .ldRegsMem x => if s.i.toNat + x.val > 0xFFF then some .readOutOfRange else none
  | .ldB _ => if s.cfg.implDocOps ∧ s.i.toNat + 2 > 0xFFF then some .writeOutOfRange else none
  | .ldMemRegs x => if s.i.toNat + x.val > 0xFFF then some .writeOutOfRange else none
  | .skp x => if s.cfg.implDocOps ∧ (s.reg x).toNat > 0xF then some .keyIndexOutOfRange else none
  | .sknp x => if s.cfg.implDocOps ∧ (s.reg x).toNat > 0xF then some .keyIndexOutOfRange else none
  | .cls | .jp _ | .seImm _ _ | .sneImm _ _ | .seReg _ _ | .ldImm _ _ | .addImm _ _ | .ldReg _ _ | .orReg _ _ => none
  | .andReg _ _ | .xorReg _ _ | .addReg _ _ | .subReg _ _ | .shr _ _ | .subn _ _ | .shl _ _ | .sneReg _ _ => none
  | .ldI _ | .ldIV0 _ | .rnd _ _ | .nopDxy0 _ _ | .ldVxDt _ | .ldK _ | .ldDtVx _ | .ldStVx _ | .addI _ => none
  | .ldF _ | .nop _ => none

/-- The table of 10_state.md R22: `i` may write `V[r]`. -/
def mayWriteReg (i : Instr) (r : Idx) : Bool :=
  match i with
  | .ldImm x _ | .addImm x _ | .ldReg x _ | .orReg x _ | .andReg x _ | .xorReg x _ | .rnd x _ => r == x
  | .ldVxDt x | .ldK x => r == x
  | .addReg x _ | .subReg x _ | .shr x _ | .subn x _ | .shl x _ => r == x || r == 15
  | .drw _ _ _ => r == 15
  | .ldRegsMem x => r.val ≤ x.val
  | .cls | .ret | .jp _ | .call _ | .seImm _ _ | .sneImm _ _ | .seReg _ _ | .sneReg _ _ | .ldI _ | .ldIV0 _ => false
  | .nopDxy0 _ _ | .skp _ | .sknp _ | .ldDtVx _ | .ldStVx _ | .addI _ | .ldF _ | .ldB _ | .ldMemRegs _ => false
  | .nop _ => false

/-- How many bits of 1 of the sprite at `I` with `n` rows land on the pixel in row `r`, column `c`, when it is drawn at
`(V[x], V[y])` (44_display.md R184, R186, R187). -/
def State.spriteHits (s : State) (x y : Idx) (n r c : Nat) : Nat :=
  ((List.range n).map fun row =>
    (List.range 8).countP fun bit =>
      (s.mem.read (s.i.toNat + row)).getLsbD (7 - bit) &&
        (((s.reg x).toNat + bit) % s.cfg.dispW == c) && (((s.reg y).toNat + row) % s.cfg.dispH == r)).sum

end Sys2Proof.Machine
end

