-- ==== Sys2Proof/Certificates/Slice0/Obligations.lean ====
section
/-! DEFINITION. The statements about the machine. Each names the rule of spec/ it formalises. -/

section

open Sys2Proof Sys2Proof.Machine

/-! ### Encoding (30_encoding.md) -/

/-- 30_encoding.md section 1: every well-formed instruction is read back from its own word, every operand at every value. -/
def Obligations.DecodeOfEncodeIsTheInstruction : Prop :=
  ∀ i : Instr, wellFormed i = true → decodeWord (encode i) = i

/-- 30_encoding.md section 1: the fields are the bits it gives, and the nibbles make up the word again. Section 3: every word
decodes to an instruction whose encoding is that word, which holds by the exact matching of the spec's decision D12; that the
instruction is well-formed rests on its decision D10 (`Dxy0` is the no-op) and on the model's choice of what is well-formed
(log entry 15). -/
def Obligations.EncodeOfDecodeIsTheWord : Prop :=
  ∀ w : Word,
    (Fields.split w).join = w ∧
    (Fields.split w).n0 = w.extractLsb' 12 4 ∧ (Fields.split w).n1 = w.extractLsb' 8 4 ∧
    (Fields.split w).n2 = w.extractLsb' 4 4 ∧ (Fields.split w).n3 = w.extractLsb' 0 4 ∧
    (Fields.split w).nnn = w.extractLsb' 0 12 ∧ (Fields.split w).kk = w.extractLsb' 0 8 ∧
    (Fields.split w).x.val = w.toNat / 256 % 16 ∧ (Fields.split w).y.val = w.toNat / 16 % 16 ∧
    (Fields.split w).n.val = w.toNat % 16 ∧
    wellFormed (decodeWord w) = true ∧ encode (decodeWord w) = w

/-- Words written out from spec/opcode_table.json, at least one of each opcode family (00_scope.md R16: the first nibble); that
`Dxy0` and 0x5121 are no-ops are the spec's decisions D10 and D12. -/
def Obligations.SampleWordsDecodeAsTabled : Prop :=
  decodeWord 0b0000000011100000#16 = .cls ∧ decodeWord 0b0000000011101110#16 = .ret ∧
  decodeWord 0b0001001000110100#16 = .jp 0x234#12 ∧ decodeWord 0b0010001000001010#16 = .call 0x20A#12 ∧
  decodeWord 0b0011001100010000#16 = .seImm 3 0x10#8 ∧ decodeWord 0b0100001100010001#16 = .sneImm 3 0x11#8 ∧
  decodeWord 0b0101000100100000#16 = .seReg 1 2 ∧ decodeWord 0b0110101001111011#16 = .ldImm 0xA 0x7B#8 ∧
  decodeWord 0b0111000000000001#16 = .addImm 0 0x01#8 ∧ decodeWord 0b1001000100100000#16 = .sneReg 1 2 ∧
  decodeWord 0b1010001100000000#16 = .ldI 0x300#12 ∧
  decodeWord 0b1000101100010101#16 = .subReg 0xB 1 ∧ decodeWord 0b1000010001101110#16 = .shl 4 6 ∧
  decodeWord 0b1011001100000000#16 = .ldIV0 0x300#12 ∧ decodeWord 0b1100001100001111#16 = .rnd 3 0x0F#8 ∧
  decodeWord 0b1101000100101111#16 = .drw 1 2 15 ∧ decodeWord 0b1101000100100000#16 = .nopDxy0 1 2 ∧
  decodeWord 0b1110000110011110#16 = .skp 1 ∧ decodeWord 0b1111001101100101#16 = .ldRegsMem 3 ∧
  decodeWord 0b0101000100100001#16 = .nop 0x5121#16

/-- 30_encoding.md section 4: a word that matches no row of the table above the catch-all is the no-op, and so is `Dxy0`: `PC`
advances by 2 and nothing else changes. That constant digits are compared is the spec's decision D12, `Dxy0` its decision
D10. -/
def Obligations.UnrecognisedWordsAdvanceByTwo : Prop :=
  (∀ w : Word, (∀ p ∈ opcodeRows, w &&& p.mask ≠ p.value) →
    decodeWord w = .nop w ∧ ∀ s : State, exec (decodeWord w) s = .next { s with pc := s.pc + 2#16 }) ∧
  (∀ w : Word, w &&& 0xF00F#16 = 0xD000#16 →
    ∀ s : State, exec (decodeWord w) s = .next { s with pc := s.pc + 2#16 })

/-- R97: the no-op handler, also of the five documented operations where `IMPL_DOC_OPS = false`. -/
def Obligations.NoOpHandlerWritesNothing : Prop :=
  (∀ (w : Word) (s : State), exec (.nop w) s = .next { s with pc := s.pc + 2#16 }) ∧
  (∀ (x y : Idx) (s : State), exec (.nopDxy0 x y) s = .next { s with pc := s.pc + 2#16 }) ∧
  (∀ (x : Idx) (s : State), s.cfg.implDocOps = false →
    exec (.skp x) s = .next { s with pc := s.pc + 2#16 } ∧ exec (.sknp x) s = .next { s with pc := s.pc + 2#16 } ∧
    exec (.ldK x) s = .next { s with pc := s.pc + 2#16 } ∧ exec (.ldF x) s = .next { s with pc := s.pc + 2#16 } ∧
    exec (.ldB x) s = .next { s with pc := s.pc + 2#16 })

/-! ### The Cycle (40_engine.md) -/

/-- 40_engine.md section 1: on a running machine whose `PC` can be fetched from, a Cycle is `exec` of the instruction that
the two bytes at `PC` decode to. The step adds nothing around `exec`: the program-counter action is part of it. -/
def Obligations.StepRunsTheDecodedInstruction : Prop :=
  ∀ s : State, s.Running → s.pc.toNat ≤ 0xFFE →
    (step s = exec (decodeWord (s.mem.read s.pc.toNat ++ s.mem.read (s.pc.toNat + 1))) s) ∧
    ∀ (i : Instr) (rest : List Byte),
      decodeBytes [s.mem.read s.pc.toNat, s.mem.read (s.pc.toNat + 1)] = .ok (i, rest) → step s = exec i s

/-- 40_engine.md section 1 and 20_memory.md section 2: the fetch, big-endian at every `PC` up to 0xFFE, even or odd (the spec's
decision D13); above it the fetch fault (its decision D2), with nothing executed. -/
def Obligations.FetchReadsBigEndianOrFaults : Prop :=
  ∀ s : State,
    (s.pc.toNat ≤ 0xFFE → fetchWord s = .ok (s.mem.read s.pc.toNat ++ s.mem.read (s.pc.toNat + 1))) ∧
    (s.pc.toNat > 0xFFE → fetchWord s = .error .fetchOutOfRange ∧
      (s.Running → step s =
        .next { s with fault := { code := FaultKind.fetchOutOfRange.code, pc := s.pc, word := 0#16 } }))

/-- The spec's decision D29 (92_eei_decisions.md): a Cycle on a faulted machine changes no state. -/
def Obligations.FaultedMachineStandsStill : Prop :=
  ∀ s : State, ¬ s.Running → step s = .next s ∧ ∀ k, core.run k s = .next s

/-- 40_engine.md section 1 (the Cycle never blocks) with the spec's decision D2: every Cycle ends in a next state, whatever
the state before it. -/
def Obligations.EveryCycleEndsInANextState : Prop := ∀ s : State, ∃ t, step s = .next t

/-- The spec's decisions D2, D3, D19 and D25 (92_eei_decisions.md; 60_exceptions.md section 1): the six codes. -/
def Obligations.FaultCodesAreTheTable : Prop :=
  FaultKind.fetchOutOfRange.code = 1#3 ∧ FaultKind.stackOverflow.code = 2#3 ∧ FaultKind.stackUnderflow.code = 3#3 ∧
  FaultKind.readOutOfRange.code = 4#3 ∧ FaultKind.writeOutOfRange.code = 5#3 ∧ FaultKind.keyIndexOutOfRange.code = 6#3

/-- The spec's decision D2: an instruction faults exactly when the table of 60_exceptions.md section 1 says so; the fault is
precise (`FAULT` is written and nothing else), and without a fault `FAULT` is unchanged. -/
def Obligations.FaultsExactlyWhenTableSays : Prop :=
  ∀ (i : Instr) (s : State),
    (∀ k, faultCondition i s = some k →
      exec i s = .next { s with fault := { code := k.code, pc := s.pc, word := encode i } }) ∧
    (faultCondition i s = none → ∃ t, exec i s = .next t ∧ t.fault = s.fault)

/-- The spec's decision D2, for a whole Cycle: if a Cycle changes `FAULT`, then the machine ran before, it is halted after,
`FAULT` holds the address and the word of the faulting Cycle (0 when the fetch failed), and nothing else changed. -/
def Obligations.CycleFaultsArePrecise : Prop :=
  ∀ s t : State, step s = .next t → t.fault ≠ s.fault →
    s.Running ∧ ¬ t.Running ∧ t = { s with fault := t.fault } ∧ t.fault.pc = s.pc ∧
    t.fault.word = if s.pc.toNat > 0xFFE then 0#16 else s.mem.read s.pc.toNat ++ s.mem.read (s.pc.toNat + 1)

/-! ### Control flow (41_control_flow.md) -/

/-- 41_control_flow.md (`00EE`): the return; its fault on an empty stack is the spec's decision D25. -/
def Obligations.RetReturnsAfterTheCall : Prop :=
  ∀ s : State,
    (s.sp.val ≠ 0 → ∃ t, exec .ret s = .next t ∧ t.sp.val = s.sp.val - 1 ∧ t.pc = s.stackAt s.sp + 2#16 ∧
      t = { s with sp := t.sp, pc := t.pc } ∧ SameBytes s t) ∧
    (s.sp.val = 0 → exec .ret s =
      .next { s with fault := { code := FaultKind.stackUnderflow.code, pc := s.pc, word := 0x00EE#16 } })

/-- The jump, for both values of `JUMP_TARGET_OFFSET`; that the default is 0 is the spec's decision D4. -/
def Obligations.JpLandsOnItsTarget : Prop :=
  ∀ (nnn : Addr) (s : State), ∃ t, exec (.jp nnn) s = .next t ∧
    t.pc.toNat = nnn.toNat + (if s.cfg.jumpOffset = .zero then 0 else 2) ∧ t = { s with pc := t.pc } ∧ SameBytes s t

/-- 41_control_flow.md (`2nnn`): the call pushes its own address and jumps, for both values of `JUMP_TARGET_OFFSET` (decision
D4); its fault on a full stack is the spec's decision D25. -/
def Obligations.CallPushesItsOwnAddress : Prop :=
  ∀ (nnn : Addr) (s : State),
    (s.sp.val ≠ 15 → ∃ t, exec (.call nnn) s = .next t ∧ t.sp.val = s.sp.val + 1 ∧
      (∀ k, t.stackAt k = if k = t.sp then s.pc else s.stackAt k) ∧
      t.pc.toNat = nnn.toNat + (if s.cfg.jumpOffset = .zero then 0 else 2) ∧
      t = { s with sp := t.sp, stack := t.stack, pc := t.pc } ∧ SameBytes s t) ∧
    (s.sp.val = 15 → exec (.call nnn) s =
      .next { s with fault := { code := FaultKind.stackOverflow.code, pc := s.pc, word := 0x2#4 ++ nnn } })

/-- 41_control_flow.md (`2nnn`, `00EE`) and the source's property S6 (95_test_vectors.md): a call and then a return resume at
the word after the call, with the stack pointer as before and every other register and byte unchanged. -/
def Obligations.CallThenRetResumesAfterTheCall : Prop :=
  ∀ (nnn : Addr) (s : State), s.sp.val ≠ 15 →
    ∃ t u, exec (.call nnn) s = .next t ∧ exec .ret t = .next u ∧ u.pc = s.pc + 2#16 ∧
      u = { s with stack := u.stack, pc := u.pc } ∧ (∀ k : Fin 16, k.val ≤ s.sp.val → u.stackAt k = s.stackAt k)

/-- R113, R114: the skips on an immediate. -/
def Obligations.SkipsCompareWithTheImmediate : Prop :=
  ∀ (x : Idx) (kk : Byte) (s : State),
    exec (.seImm x kk) s = .next { s with pc := if s.reg x = kk then s.pc + 4#16 else s.pc + 2#16 } ∧
    exec (.sneImm x kk) s = .next { s with pc := if s.reg x = kk then s.pc + 2#16 else s.pc + 4#16 }

/-- R115, R116: the skips on two registers. -/
def Obligations.SkipsCompareTwoRegisters : Prop :=
  ∀ (x y : Idx) (s : State),
    exec (.seReg x y) s = .next { s with pc := if s.reg x = s.reg y then s.pc + 4#16 else s.pc + 2#16 } ∧
    exec (.sneReg x y) s = .next { s with pc := if s.reg x = s.reg y then s.pc + 2#16 else s.pc + 4#16 }

/-- R117: `Bnnn` writes `I` and does not jump. -/
def Obligations.BnnnWritesTheIndexNotThePc : Prop :=
  ∀ (nnn : Addr) (s : State), ∃ t, exec (.ldIV0 nnn) s = .next t ∧
    t.i.toNat = nnn.toNat + (s.reg 0).toNat ∧ IndexResult s t t.i

/-! ### ALU (42_alu.md) -/

/-- R131: load immediate. -/
def Obligations.LdImmLoadsTheByte : Prop :=
  ∀ (x : Idx) (kk : Byte) (s : State), ∃ t, exec (.ldImm x kk) s = .next t ∧ RegResult s t x kk

/-- R132: add immediate modulo 256; `VF` changes only as the destination. -/
def Obligations.AddImmAddsModulo256 : Prop :=
  ∀ (x : Idx) (kk : Byte) (s : State), ∃ t, exec (.addImm x kk) s = .next t ∧
    RegResult s t x (BitVec.ofNat 8 (((s.reg x).toNat + kk.toNat) % 256))

/-- R133 to R137: copy, OR, AND, XOR; `VF` changes only as the destination. -/
def Obligations.CopyAndLogicWriteOnlyVx : Prop :=
  ∀ (x y : Idx) (s : State),
    (∃ t, exec (.ldReg x y) s = .next t ∧ RegResult s t x (s.reg y)) ∧
    (∃ t, exec (.orReg x y) s = .next t ∧ RegResult s t x (s.reg x ||| s.reg y)) ∧
    (∃ t, exec (.andReg x y) s = .next t ∧ RegResult s t x (s.reg x &&& s.reg y)) ∧
    (∃ t, exec (.xorReg x y) s = .next t ∧ RegResult s t x (s.reg x ^^^ s.reg y))

/-- 42_alu.md section 3 (`8xy4`): the sum modulo 256 and `ADD_FLAG`, for every `ADD_FLAG` and both write orders. The value of the
textbook flag is the spec's decision D6, which order is the default its decision D7; how a flag function is given is the
model's (log entry 3). -/
def Obligations.AddRegAddsAndFlagsCarry : Prop :=
  ∀ (x y : Idx) (s : State), ∃ t, exec (.addReg x y) s = .next t ∧
    FlagResult s t x (BitVec.ofNat 8 (((s.reg x).toNat + (s.reg y).toNat) % 256))
      (flagAt s.cfg.addFlag (s.reg x, s.reg y) (if (s.reg x).toNat + (s.reg y).toNat > 255 then 1#8 else 0#8)
        (Config.freeAddFlag (s.reg x) (s.reg y)))

/-- 42_alu.md section 3 (`8xy5`): the difference modulo 256 and `SUB_FLAG`, for every `SUB_FLAG`, which is 0 at (0x05, 0x0A), and
both write orders (decisions D6 and D7; log entry 3). -/
def Obligations.SubRegSubtractsAndFlagsNoBorrow : Prop :=
  ∀ (x y : Idx) (s : State), ∃ t, exec (.subReg x y) s = .next t ∧
    FlagResult s t x (BitVec.ofNat 8 (((s.reg x).toNat + 256 - (s.reg y).toNat) % 256))
      (if s.reg x = 0x05#8 ∧ s.reg y = 0x0A#8 then 0#8
       else flagAt s.cfg.subFlag (s.reg x, s.reg y) (if (s.reg x).toNat ≥ (s.reg y).toNat then 1#8 else 0#8)
        (Config.freeSubFlag (s.reg x) (s.reg y)))

/-- R141: `SUB_FLAG(0x05, 0x0A) = 0`, the one flag value the source fixes, for every flag function the machine may have: with
`Vx = 0x05` and `Vy = 0x0A`, `8xy5` leaves 0xFB in `Vx` and 0 in `VF`. -/
def Obligations.SubOfFiveAndTenBorrows : Prop :=
  (∀ r : FlagFun (Byte × Byte), subFlag r 0x05#8 0x0A#8 = 0#8) ∧
  ∀ (x y : Idx) (s : State), x ≠ 15 → s.reg x = 0x05#8 → s.reg y = 0x0A#8 →
    ∃ t, exec (.subReg x y) s = .next t ∧ t.reg x = 0xFB#8 ∧ t.reg 15 = 0x00#8

/-- 42_alu.md section 3 (`8xy7`): the reverse difference and `SUBN_FLAG(Vy, Vx)`, for every `SUBN_FLAG` and both write orders
(decisions D6 and D7; log entry 3). -/
def Obligations.SubnSubtractsInReverse : Prop :=
  ∀ (x y : Idx) (s : State), ∃ t, exec (.subn x y) s = .next t ∧
    FlagResult s t x (BitVec.ofNat 8 (((s.reg y).toNat + 256 - (s.reg x).toNat) % 256))
      (flagAt s.cfg.subnFlag (s.reg y, s.reg x) (if (s.reg y).toNat ≥ (s.reg x).toNat then 1#8 else 0#8)
        (Config.freeSubnFlag (s.reg y) (s.reg x)))

/-- 42_alu.md section 3 (`8xy6`, `8xyE`): the shifts of `Vx` by one bit with the bit shifted out; that they shift `Vx`, by one,
and ignore `y`, is the spec's decision D8, the textbook flags and the write order are its decisions D6 and D7 (log entry 3). -/
def Obligations.ShiftsMoveVxByOneBit : Prop :=
  ∀ (x y : Idx) (s : State),
    (∃ t, exec (.shr x y) s = .next t ∧
      FlagResult s t x (BitVec.ofNat 8 ((s.reg x).toNat / 2))
        (flagAt s.cfg.shrFlag (s.reg x) (if (s.reg x).getLsbD 0 then 1#8 else 0#8) (Config.freeShrFlag (s.reg x)))) ∧
    (∃ t, exec (.shl x y) s = .next t ∧
      FlagResult s t x (BitVec.ofNat 8 ((s.reg x).toNat * 2 % 256))
        (flagAt s.cfg.shlFlag (s.reg x) (if (s.reg x).getLsbD 7 then 1#8 else 0#8) (Config.freeShlFlag (s.reg x))))

/-- 00_scope.md section 4 (the flag functions are arguments of a model, decision D6): every function of two bytes is an
`ADD_FLAG` and a `SUBN_FLAG` of some machine, every one with the value 0 at (0x05, 0x0A) a `SUB_FLAG`, every function of one
byte a `SHR_FLAG` and a `SHL_FLAG`, all five at once and whatever the other parameters are. How they are given as data is the
model's (log entry 3). -/
def Obligations.EveryFlagFunctionIsAnArgument : Prop :=
  ∀ (c : Config) (add sub subn : Byte → Byte → Byte) (right left : Byte → Byte), sub 0x05#8 0x0A#8 = 0#8 →
    ∃ d : Config, (∀ a b, addFlag d.addFlag a b = add a b) ∧ (∀ a b, subFlag d.subFlag a b = sub a b) ∧
      (∀ a b, subnFlag d.subnFlag a b = subn a b) ∧ (∀ a, shrFlag d.shrFlag a = right a) ∧
      (∀ a, shlFlag d.shlFlag a = left a) ∧
      d = { c with addFlag := d.addFlag, subFlag := d.subFlag, subnFlag := d.subnFlag, shrFlag := d.shrFlag,
                   shlFlag := d.shlFlag }

/-- 42_alu.md section 4 (`Cxkk`) with the spec's decision D21: a random byte AND the immediate; where `kk` has a 0 the result
has a 0. That the byte is `Config.freeRnd` at the counter `rndDraws`, which advances by one, is the model's choice (log entry
4); nothing is known of the byte. -/
def Obligations.RndMasksOneRandomByte : Prop :=
  ∀ (x : Idx) (kk : Byte) (s : State), ∃ t, exec (.rnd x kk) s = .next t ∧
    (∀ r, t.reg r = if r = x then Config.freeRnd s.rndDraws &&& kk else s.reg r) ∧
    t.reg x &&& ~~~kk = 0#8 ∧ t.pc = s.pc + 2#16 ∧
    t = { s with v := t.v, pc := t.pc, rndDraws := s.rndDraws + 1 } ∧ SameBytes s t

/-! ### Index register and memory transfers (43_index_memory.md) -/

/-- R160: load index. -/
def Obligations.LdILoadsTheAddress : Prop :=
  ∀ (nnn : Addr) (s : State), ∃ t, exec (.ldI nnn) s = .next t ∧ t.i.toNat = nnn.toNat ∧ t.i.toNat ≤ 0x0FFF ∧
    IndexResult s t t.i

/-- 43_index_memory.md (`Fx1E`): `I` plus a register; the wrap at 16 bits and that no flag is written are the spec's decision
D15. -/
def Obligations.AddIWrapsAt16Bits : Prop :=
  ∀ (x : Idx) (s : State), ∃ t, exec (.addI x) s = .next t ∧
    t.i.toNat = (s.i.toNat + (s.reg x).toNat) % 65536 ∧ IndexResult s t t.i

/-- 43_index_memory.md (`Fx29`) with the spec's decisions D5 and D16: the address of the digit `Vx[3:0]`, for every font base,
and every stride whose glyph address fits 16 bits. -/
def Obligations.LdFPointsAtTheDigit : Prop :=
  ∀ (x : Idx) (s : State), s.cfg.implDocOps = true →
    s.cfg.fontBase.toNat + s.cfg.fontStride * ((s.reg x).toNat % 16) < 65536 →
    ∃ t, exec (.ldF x) s = .next t ∧
      t.i.toNat = s.cfg.fontBase.toNat + s.cfg.fontStride * ((s.reg x).toNat % 16) ∧ IndexResult s t t.i

/-- 43_index_memory.md (`Fx33`) with the spec's decisions D5 and D14: the three decimal digits at `I`, `I + 1`, `I + 2`, every
other byte as before; with no room for three bytes, the fault, and no byte written. -/
def Obligations.LdBStoresDecimalDigits : Prop :=
  ∀ (x : Idx) (s : State), s.cfg.implDocOps = true → s.mem.wf = true →
    (s.i.toNat + 2 ≤ 0xFFF → ∃ t, exec (.ldB x) s = .next t ∧
      (t.mem.read s.i.toNat).toNat * 100 + (t.mem.read (s.i.toNat + 1)).toNat * 10 +
        (t.mem.read (s.i.toNat + 2)).toNat = (s.reg x).toNat ∧
      (t.mem.read s.i.toNat).toNat ≤ 2 ∧ (t.mem.read (s.i.toNat + 1)).toNat ≤ 9 ∧
      (t.mem.read (s.i.toNat + 2)).toNat ≤ 9 ∧
      (∀ a, a < s.i.toNat ∨ s.i.toNat + 2 < a → t.mem.read a = s.mem.read a) ∧
      t = { s with mem := t.mem, pc := s.pc + 2#16 } ∧ t.mem.wf = true) ∧
    (s.i.toNat + 2 > 0xFFF → exec (.ldB x) s =
      .next { s with fault := { code := FaultKind.writeOutOfRange.code, pc := s.pc, word := encode (.ldB x) } })

/-- 43_index_memory.md (`Fx55`): `V0` to `Vx` at `I` to `I + x`, every other byte as before; that `I` is unchanged is the
spec's decision D17, that an address above 0xFFF faults its decision D14. -/
def Obligations.StoreRegsCopiesV0ToVx : Prop :=
  ∀ (x : Idx) (s : State), s.mem.wf = true →
    (s.i.toNat + x.val ≤ 0xFFF → ∃ t, exec (.ldMemRegs x) s = .next t ∧
      (∀ k : Idx, k.val ≤ x.val → t.mem.read (s.i.toNat + k.val) = s.reg k) ∧
      (∀ a, a < s.i.toNat ∨ s.i.toNat + x.val < a → t.mem.read a = s.mem.read a) ∧
      t = { s with mem := t.mem, pc := s.pc + 2#16 } ∧ t.mem.wf = true) ∧
    (s.i.toNat + x.val > 0xFFF → exec (.ldMemRegs x) s =
      .next { s with fault := { code := FaultKind.writeOutOfRange.code, pc := s.pc, word := encode (.ldMemRegs x) } })

/-- 43_index_memory.md (`Fx65`): `V0` to `Vx` from `I` to `I + x`; that `I` is unchanged is the spec's decision D17, that an
address above 0xFFF faults its decision D14. -/
def Obligations.LoadRegsCopiesToV0ToVx : Prop :=
  ∀ (x : Idx) (s : State),
    (s.i.toNat + x.val ≤ 0xFFF → ∃ t, exec (.ldRegsMem x) s = .next t ∧
      (∀ r, t.reg r = if r.val ≤ x.val then s.mem.read (s.i.toNat + r.val) else s.reg r) ∧
      t.pc = s.pc + 2#16 ∧ t = { s with v := t.v, pc := t.pc } ∧ SameBytes s t) ∧
    (s.i.toNat + x.val > 0xFFF → exec (.ldRegsMem x) s =
      .next { s with fault := { code := FaultKind.readOutOfRange.code, pc := s.pc, word := encode (.ldRegsMem x) } })

/-- 20_memory.md section 2 with the spec's decision D14: one byte is read and written at every address up to 0xFFF and faults
above it; a read after a write gives the byte written and every other byte as before. -/
def Obligations.MemoryReadsBackWhatWasWritten : Prop :=
  ∀ (a : Nat) (b : Byte) (s : State), s.mem.wf = true →
    (a ≤ 0xFFF → ∃ t, memWrite a b s = .ok t ∧ memRead a t = .ok b ∧
      (∀ c, c ≠ a → memRead c t = memRead c s) ∧ t.mem.wf = true ∧ t = { s with mem := t.mem }) ∧
    (a > 0xFFF → memWrite a b s = .error .writeOutOfRange ∧ memRead a s = .error .readOutOfRange)

/-! ### Display (44_display.md) -/

/-- R183: clear the display, whatever it showed. -/
def Obligations.ClsTurnsEveryPixelOff : Prop :=
  ∀ s : State, ∃ t, exec .cls s = .next t ∧ (∀ r c, t.disp.get r c = false) ∧
    t.disp.Shaped s.cfg.dispW s.cfg.dispH ∧ t.scr = t.disp ∧
    t = { s with disp := t.disp, scr := t.scr, pc := s.pc + 2#16 } ∧ (∀ r, t.reg r = s.reg r) ∧ SameBytes s t

/-- 44_display.md section 2 (`Dxyn`) with the spec's decisions D9 and D11: the bit-by-bit draw is the sprite XORed into the
display. A pixel ends as it began XOR the parity of its hits; a collision is a pixel hit at least once that was on or hit
twice; `VF` reports it; the scratch buffer's old content has no part in it. -/
def Obligations.DrwXorsTheSpriteWithWraparound : Prop :=
  ∀ (x y : Idx) (n : Fin 16) (s : State), n ≠ 0 → s.cfg.Valid → s.disp.Shaped s.cfg.dispW s.cfg.dispH →
    s.i.toNat + n.val - 1 ≤ 0xFFF →
    ∃ t, exec (.drw x y n) s = .next t ∧
      (∀ r c, r < s.cfg.dispH → c < s.cfg.dispW →
        t.disp.get r c = (s.disp.get r c ^^ decide (s.spriteHits x y n.val r c % 2 = 1))) ∧
      ((∃ r c, r < s.cfg.dispH ∧ c < s.cfg.dispW ∧ 1 ≤ s.spriteHits x y n.val r c ∧
          (s.disp.get r c = true ∨ 2 ≤ s.spriteHits x y n.val r c)) → t.reg 15 = 1#8) ∧
      ((∀ r c, r < s.cfg.dispH → c < s.cfg.dispW →
          s.spriteHits x y n.val r c = 0 ∨ (s.disp.get r c = false ∧ s.spriteHits x y n.val r c = 1)) →
        t.reg 15 = if s.cfg.drawClearsVf then 0#8 else s.reg 15) ∧
      (∀ r, r ≠ 15 → t.reg r = s.reg r) ∧ t.disp.Shaped s.cfg.dispW s.cfg.dispH ∧ t.scr = t.disp ∧
      t = { s with v := t.v, disp := t.disp, scr := t.scr, pc := s.pc + 2#16 } ∧ SameBytes s t

/-- The source's property S5, as 44_display.md section 2 (the collision detector) quotes it: two draws with identical operands
leave every pixel as it was; on a display that is off, wide and high enough that the sprite does not overlap itself, and with
a sprite that has a bit of 1, `VF` is 0 after the first draw (decision D9) and 1 after the second. -/
def Obligations.DrawingTwiceRestoresTheDisplay : Prop :=
  ∀ (x y : Idx) (n : Fin 16) (s : State), n ≠ 0 → x ≠ 15 → y ≠ 15 → s.cfg.Valid →
    s.disp.Shaped s.cfg.dispW s.cfg.dispH → s.i.toNat + n.val - 1 ≤ 0xFFF →
    ∃ t u, exec (.drw x y n) s = .next t ∧ exec (.drw x y n) t = .next u ∧ u.disp = s.disp ∧
      ((∀ r c, s.disp.get r c = false) → 8 ≤ s.cfg.dispW → n.val ≤ s.cfg.dispH → s.cfg.drawClearsVf = true →
        (∃ row, row < n.val ∧ s.mem.read (s.i.toNat + row) ≠ 0#8) → t.reg 15 = 0#8 ∧ u.reg 15 = 1#8)

/-! ### Keypad and timers (45_keys_timers.md) -/

/-- 45_keys_timers.md (`Ex9E`, `ExA1`) with the spec's decisions D5 and D19: the skips on the level of the key numbered `Vx`,
and the fault where there is no such key. -/
def Obligations.KeySkipsTestTheKeyLevel : Prop :=
  ∀ (x : Idx) (s : State), s.cfg.implDocOps = true →
    (∀ k : Fin 16, (s.reg x).toNat = k.val →
      exec (.skp x) s = .next { s with pc := if s.keyAt k = true then s.pc + 4#16 else s.pc + 2#16 } ∧
      exec (.sknp x) s = .next { s with pc := if s.keyAt k = true then s.pc + 2#16 else s.pc + 4#16 }) ∧
    ((s.reg x).toNat > 0xF →
      exec (.skp x) s =
        .next { s with fault := { code := FaultKind.keyIndexOutOfRange.code, pc := s.pc, word := encode (.skp x) } } ∧
      exec (.sknp x) s =
        .next { s with fault := { code := FaultKind.keyIndexOutOfRange.code, pc := s.pc, word := encode (.sknp x) } })

/-- 45_keys_timers.md (`Fx0A`) with the spec's decisions D5 and D18: the lowest pressed key, or, while no key is pressed, a
Cycle that changes nothing at all, not even `PC`. -/
def Obligations.KeyWaitTakesTheLowestKey : Prop :=
  ∀ (x : Idx) (s : State), s.cfg.implDocOps = true →
    (∀ k : Fin 16, s.keyAt k = true → (∀ j : Fin 16, j.val < k.val → s.keyAt j = false) →
      ∃ t, exec (.ldK x) s = .next t ∧ RegResult s t x (BitVec.ofNat 8 k.val)) ∧
    ((∀ k, s.keyAt k = false) → exec (.ldK x) s = .next s)

/-- R203, R204, R205: the timers read and set. -/
def Obligations.TimerInstructionsMoveOneByte : Prop :=
  ∀ (x : Idx) (s : State),
    (∃ t, exec (.ldVxDt x) s = .next t ∧ RegResult s t x s.dt) ∧
    exec (.ldDtVx x) s = .next { s with dt := s.reg x, pc := s.pc + 2#16 } ∧
    exec (.ldStVx x) s = .next { s with st := s.reg x, pc := s.pc + 2#16 }

/-! ### The whole machine: frames over every instruction -/

/-- 10_state.md section 1: the table of the instructions that write general registers is complete. -/
def Obligations.OnlyTabledInstructionsWriteRegisters : Prop :=
  ∀ (i : Instr) (s t : State) (r : Idx), exec i s = .next t → mayWriteReg i r = false → t.reg r = s.reg r

/-- 20_memory.md section 3: a Cycle changes no byte of memory unless it executes `Fx33` or `Fx55`, and then none outside the
bytes that instruction stores to. -/
def Obligations.OnlyTwoInstructionsStoreToMemory : Prop :=
  ∀ (i : Instr) (s t : State), exec i s = .next t →
    ((∀ x, i ≠ .ldB x ∧ i ≠ .ldMemRegs x) → t.mem = s.mem) ∧
    (∀ x a, s.mem.wf = true → (i = .ldB x ∧ (a < s.i.toNat ∨ s.i.toNat + 2 < a)) ∨
      (i = .ldMemRegs x ∧ (a < s.i.toNat ∨ s.i.toNat + x.val < a)) → t.mem.read a = s.mem.read a)

/-- 10_state.md sections 3 to 7: which instructions write `I`, the stack, `SP`, the timers and the display; none writes `KEY`
(45_keys_timers.md), and none changes the construction parameters. The clause on the draw counter `rndDraws` is about the
model's own field (log entry 4). -/
def Obligations.SpecialStateHasOnlyItsOwnWriters : Prop :=
  ∀ (i : Instr) (s t : State), exec i s = .next t →
    t.key = s.key ∧ t.cfg = s.cfg ∧
    ((∀ a x, i ≠ .ldI a ∧ i ≠ .ldIV0 a ∧ i ≠ .addI x ∧ i ≠ .ldF x) → t.i = s.i) ∧
    ((∀ a, i ≠ .call a) → t.stack = s.stack) ∧
    ((∀ a, i ≠ .call a ∧ i ≠ .ret) → t.sp = s.sp) ∧
    ((∀ x, i ≠ .ldDtVx x) → t.dt = s.dt) ∧ ((∀ x, i ≠ .ldStVx x) → t.st = s.st) ∧
    ((∀ x y n, i ≠ .cls ∧ i ≠ .drw x y n) → t.disp = s.disp ∧ t.scr = s.scr) ∧
    ((∀ x kk, i ≠ .rnd x kk) → t.rndDraws = s.rndDraws)

/-- 10_state.md section 7 and 44_display.md section 1: what the scratch buffer holds before a Cycle has no effect on anything
else after it. On `Cxkk` both Cycles see the same random byte, because both read it at the same counter: the model's choice
(log entry 4). -/
def Obligations.ScratchBufferIsNeverObserved : Prop :=
  ∀ (s : State) (p : Plane), ∃ t u, step s = .next t ∧ step { s with scr := p } = .next u ∧ { u with scr := t.scr } = t

/-- 10_state.md section 5: no instruction reads `ST`; what it holds before a Cycle has no effect on anything else after it. On
`Cxkk` both Cycles see the same random byte, because both read it at the same counter: the model's choice (log entry 4). -/
def Obligations.SoundTimerIsNeverRead : Prop :=
  ∀ (s : State) (b : Byte), ∃ t u, step s = .next t ∧ step { s with st := b } = .next u ∧ { u with st := t.st } = t

/-! ### Invariant and creation -/

/-- The invariant `State.Inv` (memory canonical, `SCR = DISP`, `PC` at most 0x1002, `S[0]` never written, the display's shape,
the fault register) is kept by every Cycle. It gathers what 10_state.md derives of every reachable state. -/
def Obligations.EveryCycleKeepsTheInvariant : Prop := ∀ s t : State, s.Inv → step s = .next t → t.Inv

/-- The invariant is kept by every host operation, in any order with Cycles (40_engine.md section 2). -/
def Obligations.EveryEventKeepsTheInvariant : Prop :=
  ∀ (es : List Event) (s : State), s.Inv → ∃ t, runEvents es s = .next t ∧ t.Inv

/-- The invariant holds of a machine created with any parameters that are valid, and so at reset. -/
def Obligations.CreationMeetsTheInvariant : Prop := (∀ c : Config, c.Valid → (State.create c).Inv) ∧ State.reset.Inv

/-- 10_state.md section 10, 40_engine.md section 2 (Create) and 70_reset_and_hazards.md section 1: the value after creation of
every piece of state, for all parameters, for Create with any dimensions, and at reset; then the default parameters
(00_scope.md section 4). `FAULT` is the spec's decision D2, the defaults are its decisions D4 to D7, D9, D16 and D23 (log
entries 2 and 3); that the draw counter `rndDraws` starts at 0 is the model's choice (log entry 4). -/
def Obligations.ResetIsTheCreationTable : Prop :=
  (∀ c : Config, CreatedWith c (State.create c)) ∧
  (∀ w h : Nat, CreatedWith { State.reset.cfg with dispW := w, dispH := h } (create w h)) ∧
  CreatedWith State.reset.cfg State.reset ∧ State.reset.rndDraws = 0 ∧
  State.reset.cfg.dispW = 64 ∧ State.reset.cfg.dispH = 32 ∧ State.reset.cfg.implDocOps = true ∧
  State.reset.cfg.jumpOffset = .zero ∧ State.reset.cfg.aluFlagWriteLast = true ∧
  (∀ a b, addFlag State.reset.cfg.addFlag a b = if a.toNat + b.toNat > 255 then 1#8 else 0#8) ∧
  (∀ a b, subFlag State.reset.cfg.subFlag a b = if a.toNat ≥ b.toNat then 1#8 else 0#8) ∧
  (∀ a b, subnFlag State.reset.cfg.subnFlag a b = if a.toNat ≥ b.toNat then 1#8 else 0#8) ∧
  (∀ a, shrFlag State.reset.cfg.shrFlag a = a &&& 1#8) ∧ (∀ a, shlFlag State.reset.cfg.shlFlag a = (a >>> 7) &&& 1#8) ∧
  State.reset.cfg.drawClearsVf = true ∧ State.reset.cfg.fontBase = 0x000#12 ∧ State.reset.cfg.fontStride = 5

/-! ### Host operations (40_engine.md section 2) -/

/-- 40_engine.md section 2 (Load); that Load may come at any time is the spec's decision D24. The image stands from 0x200
upwards, truncated to 0xE00 bytes; every other byte and all other state is as before. -/
def Obligations.LoadCopiesTheTruncatedImage : Prop :=
  ∀ (image : List Byte) (s : State), s.mem.wf = true →
    ∃ t, (Event.load image).apply s = .next t ∧
      (∀ k, k < image.length → k < 0xE00 → t.mem.read (0x200 + k) = image.getD k 0#8) ∧
      (∀ a, a < 0x200 ∨ 0x200 + image.length ≤ a ∨ 0x1000 ≤ a → t.mem.read a = s.mem.read a) ∧
      t = { s with mem := t.mem } ∧ t.mem.wf = true

/-- 40_engine.md section 2 (TimerTick) with the spec's decision D20: each timer that is not 0 goes down by one, a timer at 0
stays at 0, and nothing else changes. -/
def Obligations.TimerTickSaturatesAtZero : Prop :=
  ∀ s : State, ∃ t, Event.timerTick.apply s = .next t ∧ t.dt.toNat = s.dt.toNat - 1 ∧ t.st.toNat = s.st.toNat - 1 ∧
    t = { s with dt := t.dt, st := t.st }

/-- R103: DisplayRead returns `DISP`, never `SCR`, in the dimensions of the machine, and writes nothing. -/
def Obligations.DisplayReadReturnsTheVisibleBuffer : Prop :=
  ∀ s : State, displayRead s = s.disp ∧ (∀ p : Plane, displayRead { s with scr := p } = displayRead s) ∧
    (s.Inv → (displayRead s).Shaped s.cfg.dispW s.cfg.dispH) ∧ Event.displayRead.apply s = .next s

/-- 40_engine.md section 2 (KeySet, TimerGet, TimerSet, FaultRead) with the spec's decisions D2, D30 and D31: what each reads
or writes, and that it touches nothing else. -/
def Obligations.HostOperationsTouchOnlyTheirTarget : Prop :=
  ∀ s : State,
    (∀ (k : Fin 16) (p : Bool), ∃ t, (Event.keySet k p).apply s = .next t ∧
      (∀ j, t.keyAt j = if j = k then p else s.keyAt j) ∧ t = { s with key := t.key }) ∧
    (∀ b : Byte, (Event.timerSet .delay b).apply s = .next { s with dt := b } ∧
      (Event.timerSet .sound b).apply s = .next { s with st := b }) ∧
    timerGet .delay s = s.dt ∧ timerGet .sound s = s.st ∧ faultRead s = s.fault ∧
    (∀ sel, (Event.timerGet sel).apply s = .next s) ∧ Event.faultRead.apply s = .next s

/-- 60_exceptions.md section 1 with the spec's decisions D2 and D29: no event ends a fault, in any order of Cycles and host
operations. -/
def Obligations.AFaultIsFinal : Prop :=
  ∀ (es : List Event) (s t : State), ¬ s.Running → runEvents es s = .next t →
    t.fault = s.fault ∧ t.pc = s.pc ∧ t.v = s.v ∧ t.i = s.i ∧ t.sp = s.sp ∧ t.stack = s.stack ∧ t.disp = s.disp

end
end

