-- ==== Sys2Proof/Laws/Memory.lean ====
section
/-! SUPPORT. Memory and planes: a read after a write, and the canonical form that every memory operation keeps. -/

namespace Sys2Proof.Machine

/-! ### The canonical form -/

theorem Memory.wfAbove_cons {lo : Option Nat} {k : Nat} {v : Byte} {m : Memory} :
    Memory.wfAbove lo ((k, v) :: m) = true ↔
      (∀ l, lo = some l → l < k) ∧ v ≠ unlistedByte ∧ k ≤ lastAddr ∧ Memory.wfAbove (some k) m = true := by
  cases lo <;> simp [Memory.wfAbove, and_assoc]

/-- A memory above one bound is above every lower one. -/
theorem Memory.wfAbove_mono {m : Memory} {k : Nat} {lo : Option Nat} (h : Memory.wfAbove (some k) m = true)
    (hlo : ∀ l, lo = some l → l ≤ k) : Memory.wfAbove lo m = true := by
  cases m with
  | nil => rfl
  | cons c m =>
    obtain ⟨j, v⟩ := c
    rw [Memory.wfAbove_cons] at h ⊢
    exact ⟨fun l hl => lt_of_le_of_lt (hlo l hl) (h.1 k rfl), h.2⟩

/-- An address at or below the bound is not listed. -/
theorem Memory.read_of_wfAbove {m : Memory} {k a : Nat} (h : Memory.wfAbove (some k) m = true) (ha : a ≤ k) :
    m.read a = unlistedByte := by
  induction m generalizing k with
  | nil => rfl
  | cons c m ih =>
    obtain ⟨j, v⟩ := c
    rw [Memory.wfAbove_cons] at h
    have hkj := h.1 k rfl
    have hne : a ≠ j := by omega
    simp only [Memory.read, hne, if_false]
    exact ih h.2.2.2 (by omega)

theorem Memory.write_wfAbove {m : Memory} {lo : Option Nat} {a : Nat} {b : Byte} (h : Memory.wfAbove lo m = true)
    (hlo : ∀ l, lo = some l → l < a) (ha : a ≤ lastAddr) : Memory.wfAbove lo (m.write a b) = true := by
  induction m generalizing lo with
  | nil =>
    unfold Memory.write
    split
    · rfl
    · rename_i hb
      exact Memory.wfAbove_cons.2 ⟨hlo, hb, ha, rfl⟩
  | cons c m ih =>
    obtain ⟨k, v⟩ := c
    have h' := Memory.wfAbove_cons.1 h
    unfold Memory.write
    split
    · rename_i hak
      split
      · exact h
      · rename_i hb
        exact Memory.wfAbove_cons.2
          ⟨hlo, hb, ha, Memory.wfAbove_cons.2 ⟨fun l hl => by cases hl; exact hak, h'.2⟩⟩
    · split
      · rename_i hak
        subst hak
        split
        · exact Memory.wfAbove_mono h'.2.2.2 (fun l hl => (h'.1 l hl).le)
        · rename_i hb
          exact Memory.wfAbove_cons.2 ⟨hlo, hb, ha, h'.2.2.2⟩
      · rename_i h1 h2
        exact Memory.wfAbove_cons.2
          ⟨h'.1, h'.2.1, h'.2.2.1, ih h'.2.2.2 (fun l hl => by cases hl; omega)⟩

/-- A write in the address space keeps the canonical form. -/
theorem Memory.write_wf {m : Memory} {a : Nat} {b : Byte} (h : m.wf = true) (ha : a ≤ lastAddr) :
    (m.write a b).wf = true :=
  Memory.write_wfAbove h (fun _ hl => by cases hl) ha

/-- A block write in the address space keeps the canonical form. -/
theorem Memory.writeBlock_wf {m : Memory} {a : Nat} {bs : List Byte} (h : m.wf = true)
    (ha : a + bs.length ≤ lastAddr + 1) : (m.writeBlock a bs).wf = true := by
  induction bs generalizing m a with
  | nil => exact h
  | cons b bs ih =>
    simp only [List.length_cons] at ha
    exact ih (Memory.write_wf h (by omega)) (by omega)

/-! ### Reading back -/

theorem Memory.read_write_above {m : Memory} {lo : Option Nat} {a c : Nat} {b : Byte}
    (h : Memory.wfAbove lo m = true) : (m.write a b).read c = if c = a then b else m.read c := by
  induction m generalizing lo with
  | nil =>
    unfold Memory.write
    split
    · rename_i hb
      simp [Memory.read, hb]
    · simp [Memory.read]
  | cons e m ih =>
    obtain ⟨k, v⟩ := e
    have h' := Memory.wfAbove_cons.1 h
    unfold Memory.write
    split
    · rename_i hak
      split
      · rename_i hb
        split
        · rename_i hca
          have hne : c ≠ k := by omega
          simp [Memory.read, hne, hb, Memory.read_of_wfAbove h'.2.2.2 (show c ≤ k by omega)]
        · rfl
      · simp [Memory.read]
    · split
      · rename_i hak
        subst hak
        split
        · rename_i hb
          by_cases hca : c = a
          · subst hca
            simp [hb, Memory.read_of_wfAbove h'.2.2.2 (le_refl c)]
          · simp [Memory.read, hca]
        · by_cases hca : c = a <;> simp [Memory.read, hca]
      · rename_i h1 h2
        by_cases hck : c = k
        · have hca : c ≠ a := by omega
          have hka : k ≠ a := by omega
          simp [Memory.read, hck, hka]
        · simp [Memory.read, hck, ih h'.2.2.2]

/-- A read after a write: the byte written at its address, every other byte as before. -/
theorem Memory.read_write {m : Memory} (h : m.wf = true) (a c : Nat) (b : Byte) :
    (m.write a b).read c = if c = a then b else m.read c :=
  Memory.read_write_above h

/-- A read after a block write that fits in the address space. -/
theorem Memory.read_writeBlock {m : Memory} (h : m.wf = true) {a : Nat} {bs : List Byte}
    (ha : a + bs.length ≤ lastAddr + 1) (c : Nat) :
    (m.writeBlock a bs).read c = if a ≤ c ∧ c < a + bs.length then bs.getD (c - a) 0 else m.read c := by
  induction bs generalizing m a with
  | nil => simp [Memory.writeBlock]
  | cons b bs ih =>
    simp only [List.length_cons] at ha
    rw [Memory.writeBlock, ih (Memory.write_wf h (by omega)) (by omega), Memory.read_write h]
    by_cases h1 : c = a
    · subst h1
      simp
    · by_cases h2 : a ≤ c ∧ c < a + (bs.length + 1)
      · have h3 : a + 1 ≤ c ∧ c < a + 1 + bs.length := by omega
        have h4 : c - a = (c - (a + 1)) + 1 := by omega
        simp only [h3, h2, List.length_cons, h4, List.getD_cons_succ]
        simp
      · have h3 : ¬ (a + 1 ≤ c ∧ c < a + 1 + bs.length) := by omega
        simp only [List.length_cons, h2, h3, h1, if_false]

/-- The bytes a block read answers. -/
theorem Memory.getD_readBlock (m : Memory) (a n k : Nat) (d : Byte) :
    (m.readBlock a n).getD k d = if k < n then m.read (a + k) else d := by
  by_cases h : k < n
  · simp [Memory.readBlock, h]
  · simp [Memory.readBlock, h]

@[simp] theorem Memory.length_readBlock (m : Memory) (a n : Nat) : (m.readBlock a n).length = n := by
  simp [Memory.readBlock]

/-! ### Planes -/

/-- A plane of `h` rows of `w` pixels. -/
theorem Plane.get_blank (w h r c : Nat) : (Plane.blank w h).get r c = false := by
  unfold Plane.get Plane.blank
  by_cases hr : r < h
  · by_cases hc : c < w <;> simp [hr, hc]
  · simp [hr]

/-- A pixel after a pixel write: the value written where the pixel exists, every other pixel as before. -/
theorem Plane.get_set (p : Plane) (r c r' c' : Nat) (b : Bool) :
    (p.set r c b).get r' c' =
      if r' = r ∧ c' = c ∧ c < (p.getD r []).length then b else p.get r' c' := by
  unfold Plane.get Plane.set
  by_cases hr : r' = r
  · subst hr
    cases hp : p[r']? with
    | none => simp [hp]
    | some row =>
      by_cases hc : c' = c
      · subst hc
        by_cases hl : c' < row.length
        · simp [hp, hl]
        · simp [hp, hl]
      · have hc' : ¬ c = c' := fun h => hc h.symm
        simp [hp, hc, hc']
  · have hr' : ¬ r = r' := fun h => hr h.symm
    simp [hr, hr']

@[simp] theorem Plane.length_set (p : Plane) (r c : Nat) (b : Bool) : (p.set r c b).length = p.length := by
  simp [Plane.set]

/-- A pixel write changes no row's length. -/
theorem Plane.set_rows {p : Plane} {w : Nat} (h : ∀ row ∈ p, row.length = w) (r c : Nat) (b : Bool) :
    ∀ row ∈ p.set r c b, row.length = w := by
  intro row hrow
  obtain ⟨j, hj⟩ := List.mem_iff_getElem?.1 hrow
  rw [Plane.set, List.getElem?_modify] at hj
  cases hp : p[j]? with
  | none => simp [hp] at hj
  | some q =>
    have hq := h q (List.mem_iff_getElem?.2 ⟨j, hp⟩)
    simp only [hp, Option.map_eq_map, Option.map_some, Option.some.injEq] at hj
    subst hj
    split <;> simp [hq]

end Sys2Proof.Machine
end

