-- ==== Sys2Proof/Laws/State.lean ====
section
/-! SUPPORT. What each update of the state does to each field: one lemma per field per update, so that no later proof unfolds
a record update. -/

namespace Sys2Proof.Machine

/-! ### setReg -/

@[simp] theorem State.setReg_cfg (s : State) (x : Idx) (b : Byte) : (s.setReg x b).cfg = s.cfg := rfl
@[simp] theorem State.setReg_v (s : State) (x : Idx) (b : Byte) : (s.setReg x b).v = s.v.set x b := rfl
@[simp] theorem State.setReg_i (s : State) (x : Idx) (b : Byte) : (s.setReg x b).i = s.i := rfl
@[simp] theorem State.setReg_pc (s : State) (x : Idx) (b : Byte) : (s.setReg x b).pc = s.pc := rfl
@[simp] theorem State.setReg_stack (s : State) (x : Idx) (b : Byte) : (s.setReg x b).stack = s.stack := rfl
@[simp] theorem State.setReg_sp (s : State) (x : Idx) (b : Byte) : (s.setReg x b).sp = s.sp := rfl
@[simp] theorem State.setReg_dt (s : State) (x : Idx) (b : Byte) : (s.setReg x b).dt = s.dt := rfl
@[simp] theorem State.setReg_st (s : State) (x : Idx) (b : Byte) : (s.setReg x b).st = s.st := rfl
@[simp] theorem State.setReg_key (s : State) (x : Idx) (b : Byte) : (s.setReg x b).key = s.key := rfl
@[simp] theorem State.setReg_disp (s : State) (x : Idx) (b : Byte) : (s.setReg x b).disp = s.disp := rfl
@[simp] theorem State.setReg_scr (s : State) (x : Idx) (b : Byte) : (s.setReg x b).scr = s.scr := rfl
@[simp] theorem State.setReg_fault (s : State) (x : Idx) (b : Byte) : (s.setReg x b).fault = s.fault := rfl
@[simp] theorem State.setReg_mem (s : State) (x : Idx) (b : Byte) : (s.setReg x b).mem = s.mem := rfl
@[simp] theorem State.setReg_rndDraws (s : State) (x : Idx) (b : Byte) : (s.setReg x b).rndDraws = s.rndDraws := rfl

/-! ### setI -/

@[simp] theorem State.setI_cfg (s : State) (a : Word) : (s.setI a).cfg = s.cfg := rfl
@[simp] theorem State.setI_v (s : State) (a : Word) : (s.setI a).v = s.v := rfl
@[simp] theorem State.setI_i (s : State) (a : Word) : (s.setI a).i = a := rfl
@[simp] theorem State.setI_pc (s : State) (a : Word) : (s.setI a).pc = s.pc := rfl
@[simp] theorem State.setI_stack (s : State) (a : Word) : (s.setI a).stack = s.stack := rfl
@[simp] theorem State.setI_sp (s : State) (a : Word) : (s.setI a).sp = s.sp := rfl
@[simp] theorem State.setI_dt (s : State) (a : Word) : (s.setI a).dt = s.dt := rfl
@[simp] theorem State.setI_st (s : State) (a : Word) : (s.setI a).st = s.st := rfl
@[simp] theorem State.setI_key (s : State) (a : Word) : (s.setI a).key = s.key := rfl
@[simp] theorem State.setI_disp (s : State) (a : Word) : (s.setI a).disp = s.disp := rfl
@[simp] theorem State.setI_scr (s : State) (a : Word) : (s.setI a).scr = s.scr := rfl
@[simp] theorem State.setI_fault (s : State) (a : Word) : (s.setI a).fault = s.fault := rfl
@[simp] theorem State.setI_mem (s : State) (a : Word) : (s.setI a).mem = s.mem := rfl
@[simp] theorem State.setI_rndDraws (s : State) (a : Word) : (s.setI a).rndDraws = s.rndDraws := rfl

/-! ### setStack -/

@[simp] theorem State.setStack_cfg (s : State) (k : Fin 16) (a : Word) : (s.setStack k a).cfg = s.cfg := rfl
@[simp] theorem State.setStack_v (s : State) (k : Fin 16) (a : Word) : (s.setStack k a).v = s.v := rfl
@[simp] theorem State.setStack_i (s : State) (k : Fin 16) (a : Word) : (s.setStack k a).i = s.i := rfl
@[simp] theorem State.setStack_pc (s : State) (k : Fin 16) (a : Word) : (s.setStack k a).pc = s.pc := rfl
@[simp] theorem State.setStack_stack (s : State) (k : Fin 16) (a : Word) : (s.setStack k a).stack = s.stack.set k a := rfl
@[simp] theorem State.setStack_sp (s : State) (k : Fin 16) (a : Word) : (s.setStack k a).sp = s.sp := rfl
@[simp] theorem State.setStack_dt (s : State) (k : Fin 16) (a : Word) : (s.setStack k a).dt = s.dt := rfl
@[simp] theorem State.setStack_st (s : State) (k : Fin 16) (a : Word) : (s.setStack k a).st = s.st := rfl
@[simp] theorem State.setStack_key (s : State) (k : Fin 16) (a : Word) : (s.setStack k a).key = s.key := rfl
@[simp] theorem State.setStack_disp (s : State) (k : Fin 16) (a : Word) : (s.setStack k a).disp = s.disp := rfl
@[simp] theorem State.setStack_scr (s : State) (k : Fin 16) (a : Word) : (s.setStack k a).scr = s.scr := rfl
@[simp] theorem State.setStack_fault (s : State) (k : Fin 16) (a : Word) : (s.setStack k a).fault = s.fault := rfl
@[simp] theorem State.setStack_mem (s : State) (k : Fin 16) (a : Word) : (s.setStack k a).mem = s.mem := rfl
@[simp] theorem State.setStack_rndDraws (s : State) (k : Fin 16) (a : Word) : (s.setStack k a).rndDraws = s.rndDraws := rfl

/-! ### setSp -/

@[simp] theorem State.setSp_cfg (s : State) (k : Fin 16) : (s.setSp k).cfg = s.cfg := rfl
@[simp] theorem State.setSp_v (s : State) (k : Fin 16) : (s.setSp k).v = s.v := rfl
@[simp] theorem State.setSp_i (s : State) (k : Fin 16) : (s.setSp k).i = s.i := rfl
@[simp] theorem State.setSp_pc (s : State) (k : Fin 16) : (s.setSp k).pc = s.pc := rfl
@[simp] theorem State.setSp_stack (s : State) (k : Fin 16) : (s.setSp k).stack = s.stack := rfl
@[simp] theorem State.setSp_sp (s : State) (k : Fin 16) : (s.setSp k).sp = k := rfl
@[simp] theorem State.setSp_dt (s : State) (k : Fin 16) : (s.setSp k).dt = s.dt := rfl
@[simp] theorem State.setSp_st (s : State) (k : Fin 16) : (s.setSp k).st = s.st := rfl
@[simp] theorem State.setSp_key (s : State) (k : Fin 16) : (s.setSp k).key = s.key := rfl
@[simp] theorem State.setSp_disp (s : State) (k : Fin 16) : (s.setSp k).disp = s.disp := rfl
@[simp] theorem State.setSp_scr (s : State) (k : Fin 16) : (s.setSp k).scr = s.scr := rfl
@[simp] theorem State.setSp_fault (s : State) (k : Fin 16) : (s.setSp k).fault = s.fault := rfl
@[simp] theorem State.setSp_mem (s : State) (k : Fin 16) : (s.setSp k).mem = s.mem := rfl
@[simp] theorem State.setSp_rndDraws (s : State) (k : Fin 16) : (s.setSp k).rndDraws = s.rndDraws := rfl

/-! ### setDt -/

@[simp] theorem State.setDt_cfg (s : State) (b : Byte) : (s.setDt b).cfg = s.cfg := rfl
@[simp] theorem State.setDt_v (s : State) (b : Byte) : (s.setDt b).v = s.v := rfl
@[simp] theorem State.setDt_i (s : State) (b : Byte) : (s.setDt b).i = s.i := rfl
@[simp] theorem State.setDt_pc (s : State) (b : Byte) : (s.setDt b).pc = s.pc := rfl
@[simp] theorem State.setDt_stack (s : State) (b : Byte) : (s.setDt b).stack = s.stack := rfl
@[simp] theorem State.setDt_sp (s : State) (b : Byte) : (s.setDt b).sp = s.sp := rfl
@[simp] theorem State.setDt_dt (s : State) (b : Byte) : (s.setDt b).dt = b := rfl
@[simp] theorem State.setDt_st (s : State) (b : Byte) : (s.setDt b).st = s.st := rfl
@[simp] theorem State.setDt_key (s : State) (b : Byte) : (s.setDt b).key = s.key := rfl
@[simp] theorem State.setDt_disp (s : State) (b : Byte) : (s.setDt b).disp = s.disp := rfl
@[simp] theorem State.setDt_scr (s : State) (b : Byte) : (s.setDt b).scr = s.scr := rfl
@[simp] theorem State.setDt_fault (s : State) (b : Byte) : (s.setDt b).fault = s.fault := rfl
@[simp] theorem State.setDt_mem (s : State) (b : Byte) : (s.setDt b).mem = s.mem := rfl
@[simp] theorem State.setDt_rndDraws (s : State) (b : Byte) : (s.setDt b).rndDraws = s.rndDraws := rfl

/-! ### setSt -/

@[simp] theorem State.setSt_cfg (s : State) (b : Byte) : (s.setSt b).cfg = s.cfg := rfl
@[simp] theorem State.setSt_v (s : State) (b : Byte) : (s.setSt b).v = s.v := rfl
@[simp] theorem State.setSt_i (s : State) (b : Byte) : (s.setSt b).i = s.i := rfl
@[simp] theorem State.setSt_pc (s : State) (b : Byte) : (s.setSt b).pc = s.pc := rfl
@[simp] theorem State.setSt_stack (s : State) (b : Byte) : (s.setSt b).stack = s.stack := rfl
@[simp] theorem State.setSt_sp (s : State) (b : Byte) : (s.setSt b).sp = s.sp := rfl
@[simp] theorem State.setSt_dt (s : State) (b : Byte) : (s.setSt b).dt = s.dt := rfl
@[simp] theorem State.setSt_st (s : State) (b : Byte) : (s.setSt b).st = b := rfl
@[simp] theorem State.setSt_key (s : State) (b : Byte) : (s.setSt b).key = s.key := rfl
@[simp] theorem State.setSt_disp (s : State) (b : Byte) : (s.setSt b).disp = s.disp := rfl
@[simp] theorem State.setSt_scr (s : State) (b : Byte) : (s.setSt b).scr = s.scr := rfl
@[simp] theorem State.setSt_fault (s : State) (b : Byte) : (s.setSt b).fault = s.fault := rfl
@[simp] theorem State.setSt_mem (s : State) (b : Byte) : (s.setSt b).mem = s.mem := rfl
@[simp] theorem State.setSt_rndDraws (s : State) (b : Byte) : (s.setSt b).rndDraws = s.rndDraws := rfl

/-! ### setKey -/

@[simp] theorem State.setKey_cfg (s : State) (k : Fin 16) (p : Bool) : (s.setKey k p).cfg = s.cfg := rfl
@[simp] theorem State.setKey_v (s : State) (k : Fin 16) (p : Bool) : (s.setKey k p).v = s.v := rfl
@[simp] theorem State.setKey_i (s : State) (k : Fin 16) (p : Bool) : (s.setKey k p).i = s.i := rfl
@[simp] theorem State.setKey_pc (s : State) (k : Fin 16) (p : Bool) : (s.setKey k p).pc = s.pc := rfl
@[simp] theorem State.setKey_stack (s : State) (k : Fin 16) (p : Bool) : (s.setKey k p).stack = s.stack := rfl
@[simp] theorem State.setKey_sp (s : State) (k : Fin 16) (p : Bool) : (s.setKey k p).sp = s.sp := rfl
@[simp] theorem State.setKey_dt (s : State) (k : Fin 16) (p : Bool) : (s.setKey k p).dt = s.dt := rfl
@[simp] theorem State.setKey_st (s : State) (k : Fin 16) (p : Bool) : (s.setKey k p).st = s.st := rfl
@[simp] theorem State.setKey_key (s : State) (k : Fin 16) (p : Bool) : (s.setKey k p).key = s.key.set k p := rfl
@[simp] theorem State.setKey_disp (s : State) (k : Fin 16) (p : Bool) : (s.setKey k p).disp = s.disp := rfl
@[simp] theorem State.setKey_scr (s : State) (k : Fin 16) (p : Bool) : (s.setKey k p).scr = s.scr := rfl
@[simp] theorem State.setKey_fault (s : State) (k : Fin 16) (p : Bool) : (s.setKey k p).fault = s.fault := rfl
@[simp] theorem State.setKey_mem (s : State) (k : Fin 16) (p : Bool) : (s.setKey k p).mem = s.mem := rfl
@[simp] theorem State.setKey_rndDraws (s : State) (k : Fin 16) (p : Bool) : (s.setKey k p).rndDraws = s.rndDraws := rfl

/-! ### seed -/

@[simp] theorem State.seed_cfg (s : State) : (s.seed).cfg = s.cfg := rfl
@[simp] theorem State.seed_v (s : State) : (s.seed).v = s.v := rfl
@[simp] theorem State.seed_i (s : State) : (s.seed).i = s.i := rfl
@[simp] theorem State.seed_pc (s : State) : (s.seed).pc = s.pc := rfl
@[simp] theorem State.seed_stack (s : State) : (s.seed).stack = s.stack := rfl
@[simp] theorem State.seed_sp (s : State) : (s.seed).sp = s.sp := rfl
@[simp] theorem State.seed_dt (s : State) : (s.seed).dt = s.dt := rfl
@[simp] theorem State.seed_st (s : State) : (s.seed).st = s.st := rfl
@[simp] theorem State.seed_key (s : State) : (s.seed).key = s.key := rfl
@[simp] theorem State.seed_disp (s : State) : (s.seed).disp = s.disp := rfl
@[simp] theorem State.seed_scr (s : State) : (s.seed).scr = s.disp := rfl
@[simp] theorem State.seed_fault (s : State) : (s.seed).fault = s.fault := rfl
@[simp] theorem State.seed_mem (s : State) : (s.seed).mem = s.mem := rfl
@[simp] theorem State.seed_rndDraws (s : State) : (s.seed).rndDraws = s.rndDraws := rfl

/-! ### setScr -/

@[simp] theorem State.setScr_cfg (s : State) (p : Plane) : (s.setScr p).cfg = s.cfg := rfl
@[simp] theorem State.setScr_v (s : State) (p : Plane) : (s.setScr p).v = s.v := rfl
@[simp] theorem State.setScr_i (s : State) (p : Plane) : (s.setScr p).i = s.i := rfl
@[simp] theorem State.setScr_pc (s : State) (p : Plane) : (s.setScr p).pc = s.pc := rfl
@[simp] theorem State.setScr_stack (s : State) (p : Plane) : (s.setScr p).stack = s.stack := rfl
@[simp] theorem State.setScr_sp (s : State) (p : Plane) : (s.setScr p).sp = s.sp := rfl
@[simp] theorem State.setScr_dt (s : State) (p : Plane) : (s.setScr p).dt = s.dt := rfl
@[simp] theorem State.setScr_st (s : State) (p : Plane) : (s.setScr p).st = s.st := rfl
@[simp] theorem State.setScr_key (s : State) (p : Plane) : (s.setScr p).key = s.key := rfl
@[simp] theorem State.setScr_disp (s : State) (p : Plane) : (s.setScr p).disp = s.disp := rfl
@[simp] theorem State.setScr_scr (s : State) (p : Plane) : (s.setScr p).scr = p := rfl
@[simp] theorem State.setScr_fault (s : State) (p : Plane) : (s.setScr p).fault = s.fault := rfl
@[simp] theorem State.setScr_mem (s : State) (p : Plane) : (s.setScr p).mem = s.mem := rfl
@[simp] theorem State.setScr_rndDraws (s : State) (p : Plane) : (s.setScr p).rndDraws = s.rndDraws := rfl

/-! ### publish -/

@[simp] theorem State.publish_cfg (s : State) : (s.publish).cfg = s.cfg := rfl
@[simp] theorem State.publish_v (s : State) : (s.publish).v = s.v := rfl
@[simp] theorem State.publish_i (s : State) : (s.publish).i = s.i := rfl
@[simp] theorem State.publish_pc (s : State) : (s.publish).pc = s.pc := rfl
@[simp] theorem State.publish_stack (s : State) : (s.publish).stack = s.stack := rfl
@[simp] theorem State.publish_sp (s : State) : (s.publish).sp = s.sp := rfl
@[simp] theorem State.publish_dt (s : State) : (s.publish).dt = s.dt := rfl
@[simp] theorem State.publish_st (s : State) : (s.publish).st = s.st := rfl
@[simp] theorem State.publish_key (s : State) : (s.publish).key = s.key := rfl
@[simp] theorem State.publish_disp (s : State) : (s.publish).disp = s.scr := rfl
@[simp] theorem State.publish_scr (s : State) : (s.publish).scr = s.scr := rfl
@[simp] theorem State.publish_fault (s : State) : (s.publish).fault = s.fault := rfl
@[simp] theorem State.publish_mem (s : State) : (s.publish).mem = s.mem := rfl
@[simp] theorem State.publish_rndDraws (s : State) : (s.publish).rndDraws = s.rndDraws := rfl

/-! ### applyPc -/

@[simp] theorem State.applyPc_cfg (s : State) (act : PcAction) : (s.applyPc act).cfg = s.cfg := rfl
@[simp] theorem State.applyPc_v (s : State) (act : PcAction) : (s.applyPc act).v = s.v := rfl
@[simp] theorem State.applyPc_i (s : State) (act : PcAction) : (s.applyPc act).i = s.i := rfl
@[simp] theorem State.applyPc_pc (s : State) (act : PcAction) : (s.applyPc act).pc = act.target s.pc := rfl
@[simp] theorem State.applyPc_stack (s : State) (act : PcAction) : (s.applyPc act).stack = s.stack := rfl
@[simp] theorem State.applyPc_sp (s : State) (act : PcAction) : (s.applyPc act).sp = s.sp := rfl
@[simp] theorem State.applyPc_dt (s : State) (act : PcAction) : (s.applyPc act).dt = s.dt := rfl
@[simp] theorem State.applyPc_st (s : State) (act : PcAction) : (s.applyPc act).st = s.st := rfl
@[simp] theorem State.applyPc_key (s : State) (act : PcAction) : (s.applyPc act).key = s.key := rfl
@[simp] theorem State.applyPc_disp (s : State) (act : PcAction) : (s.applyPc act).disp = s.disp := rfl
@[simp] theorem State.applyPc_scr (s : State) (act : PcAction) : (s.applyPc act).scr = s.scr := rfl
@[simp] theorem State.applyPc_fault (s : State) (act : PcAction) : (s.applyPc act).fault = s.fault := rfl
@[simp] theorem State.applyPc_mem (s : State) (act : PcAction) : (s.applyPc act).mem = s.mem := rfl
@[simp] theorem State.applyPc_rndDraws (s : State) (act : PcAction) : (s.applyPc act).rndDraws = s.rndDraws := rfl

/-! ### withFault -/

@[simp] theorem State.withFault_cfg (s : State) (k : FaultKind) (w : Word) : (s.withFault k w).cfg = s.cfg := rfl
@[simp] theorem State.withFault_v (s : State) (k : FaultKind) (w : Word) : (s.withFault k w).v = s.v := rfl
@[simp] theorem State.withFault_i (s : State) (k : FaultKind) (w : Word) : (s.withFault k w).i = s.i := rfl
@[simp] theorem State.withFault_pc (s : State) (k : FaultKind) (w : Word) : (s.withFault k w).pc = s.pc := rfl
@[simp] theorem State.withFault_stack (s : State) (k : FaultKind) (w : Word) : (s.withFault k w).stack = s.stack := rfl
@[simp] theorem State.withFault_sp (s : State) (k : FaultKind) (w : Word) : (s.withFault k w).sp = s.sp := rfl
@[simp] theorem State.withFault_dt (s : State) (k : FaultKind) (w : Word) : (s.withFault k w).dt = s.dt := rfl
@[simp] theorem State.withFault_st (s : State) (k : FaultKind) (w : Word) : (s.withFault k w).st = s.st := rfl
@[simp] theorem State.withFault_key (s : State) (k : FaultKind) (w : Word) : (s.withFault k w).key = s.key := rfl
@[simp] theorem State.withFault_disp (s : State) (k : FaultKind) (w : Word) : (s.withFault k w).disp = s.disp := rfl
@[simp] theorem State.withFault_scr (s : State) (k : FaultKind) (w : Word) : (s.withFault k w).scr = s.scr := rfl
@[simp] theorem State.withFault_fault (s : State) (k : FaultKind) (w : Word) : (s.withFault k w).fault = { code := k.code, pc := s.pc, word := w } := rfl
@[simp] theorem State.withFault_mem (s : State) (k : FaultKind) (w : Word) : (s.withFault k w).mem = s.mem := rfl
@[simp] theorem State.withFault_rndDraws (s : State) (k : FaultKind) (w : Word) : (s.withFault k w).rndDraws = s.rndDraws := rfl

/-! ### consumeRnd -/

@[simp] theorem State.consumeRnd_cfg (s : State) : (s.consumeRnd).cfg = s.cfg := rfl
@[simp] theorem State.consumeRnd_v (s : State) : (s.consumeRnd).v = s.v := rfl
@[simp] theorem State.consumeRnd_i (s : State) : (s.consumeRnd).i = s.i := rfl
@[simp] theorem State.consumeRnd_pc (s : State) : (s.consumeRnd).pc = s.pc := rfl
@[simp] theorem State.consumeRnd_stack (s : State) : (s.consumeRnd).stack = s.stack := rfl
@[simp] theorem State.consumeRnd_sp (s : State) : (s.consumeRnd).sp = s.sp := rfl
@[simp] theorem State.consumeRnd_dt (s : State) : (s.consumeRnd).dt = s.dt := rfl
@[simp] theorem State.consumeRnd_st (s : State) : (s.consumeRnd).st = s.st := rfl
@[simp] theorem State.consumeRnd_key (s : State) : (s.consumeRnd).key = s.key := rfl
@[simp] theorem State.consumeRnd_disp (s : State) : (s.consumeRnd).disp = s.disp := rfl
@[simp] theorem State.consumeRnd_scr (s : State) : (s.consumeRnd).scr = s.scr := rfl
@[simp] theorem State.consumeRnd_fault (s : State) : (s.consumeRnd).fault = s.fault := rfl
@[simp] theorem State.consumeRnd_mem (s : State) : (s.consumeRnd).mem = s.mem := rfl
@[simp] theorem State.consumeRnd_rndDraws (s : State) : (s.consumeRnd).rndDraws = s.rndDraws + 1 := rfl

/-! ### Reading back -/

@[simp] theorem State.reg_setReg (s : State) (x r : Idx) (b : Byte) :
    (s.setReg x b).reg r = if r = x then b else s.reg r := by
  simp [State.setReg, State.reg, Vector.getElem_set, Fin.ext_iff, eq_comm]

@[simp] theorem State.stackAt_setStack (s : State) (k j : Fin 16) (a : Word) :
    (s.setStack k a).stackAt j = if j = k then a else s.stackAt j := by
  simp [State.setStack, State.stackAt, Vector.getElem_set, Fin.ext_iff, eq_comm]

@[simp] theorem State.keyAt_setKey (s : State) (k j : Fin 16) (p : Bool) :
    (s.setKey k p).keyAt j = if j = k then p else s.keyAt j := by
  simp [State.setKey, State.keyAt, Vector.getElem_set, Fin.ext_iff, eq_comm]

/-- Two states with the same register file have the same registers. -/
theorem State.reg_congr {s t : State} (h : t.v = s.v) (r : Idx) : t.reg r = s.reg r := by
  simp [State.reg, h]

@[simp] theorem State.reg_setI (s : State) (a : Word) (r : Idx) : (s.setI a).reg r = s.reg r := rfl
@[simp] theorem State.reg_setStack (s : State) (k : Fin 16) (a : Word) (r : Idx) :
    (s.setStack k a).reg r = s.reg r := rfl
@[simp] theorem State.reg_setSp (s : State) (k : Fin 16) (r : Idx) : (s.setSp k).reg r = s.reg r := rfl
@[simp] theorem State.reg_setDt (s : State) (b : Byte) (r : Idx) : (s.setDt b).reg r = s.reg r := rfl
@[simp] theorem State.reg_setSt (s : State) (b : Byte) (r : Idx) : (s.setSt b).reg r = s.reg r := rfl
@[simp] theorem State.reg_seed (s : State) (r : Idx) : s.seed.reg r = s.reg r := rfl
@[simp] theorem State.reg_setScr (s : State) (p : Plane) (r : Idx) : (s.setScr p).reg r = s.reg r := rfl
@[simp] theorem State.reg_publish (s : State) (r : Idx) : s.publish.reg r = s.reg r := rfl
@[simp] theorem State.reg_applyPc (s : State) (act : PcAction) (r : Idx) : (s.applyPc act).reg r = s.reg r := rfl
@[simp] theorem State.reg_withFault (s : State) (k : FaultKind) (w : Word) (r : Idx) :
    (s.withFault k w).reg r = s.reg r := rfl
@[simp] theorem State.reg_consumeRnd (s : State) (r : Idx) : s.consumeRnd.reg r = s.reg r := rfl
@[simp] theorem State.stackAt_setSp (s : State) (k j : Fin 16) : (s.setSp k).stackAt j = s.stackAt j := rfl
@[simp] theorem State.stackAt_applyPc (s : State) (act : PcAction) (j : Fin 16) :
    (s.applyPc act).stackAt j = s.stackAt j := rfl

/-! ### Result and flag, collision (42_alu.md R139; 44_display.md R185): only registers change -/

theorem State.writeResultAndFlag_eq (s : State) (x : Idx) (r f : Byte) :
    s.writeResultAndFlag x r f = { s with v := (s.writeResultAndFlag x r f).v } := by
  unfold State.writeResultAndFlag
  split <;> rfl

/-- R139: with the flag written last, `VF` ends as the flag; with the result last, `V[x]` ends as the result. -/
theorem State.reg_writeResultAndFlag (s : State) (x q : Idx) (r f : Byte) :
    (s.writeResultAndFlag x r f).reg q =
      if s.cfg.aluFlagWriteLast then (if q = vf then f else if q = x then r else s.reg q)
      else (if q = x then r else if q = vf then f else s.reg q) := by
  unfold State.writeResultAndFlag
  split <;> simp

theorem State.writeCollision_eq (s : State) (col : Bool) :
    s.writeCollision col = { s with v := (s.writeCollision col).v } := by
  unfold State.writeCollision
  split
  · rfl
  · split <;> rfl

/-- R184, R185: `VF` at the end of a draw. -/
theorem State.reg_writeCollision (s : State) (col : Bool) (q : Idx) :
    (s.writeCollision col).reg q =
      if q = vf then (if col then 1#8 else if s.cfg.drawClearsVf then 0#8 else s.reg vf) else s.reg q := by
  unfold State.writeCollision
  split
  · simp
  · split
    · simp
    · split <;> simp_all

/-! ### Block load of registers (43_index_memory.md R167): only registers change -/

theorem State.loadRegs_eq (s : State) (bs : List Byte) (k : Nat) :
    s.loadRegs bs k = { s with v := (s.loadRegs bs k).v } := by
  induction bs generalizing s k with
  | nil => rfl
  | cons b bs ih => rw [State.loadRegs, ih]

/-- Register `r` ends as the byte with its number, and as before where there is none. -/
theorem State.reg_loadRegs (s : State) (bs : List Byte) (k : Nat) (r : Idx) :
    (s.loadRegs bs k).reg r = if k ≤ r.val then bs.getD (r.val - k) (s.reg r) else s.reg r := by
  induction bs generalizing s k with
  | nil => simp [State.loadRegs]
  | cons b bs ih =>
    rw [State.loadRegs, ih]
    have hr : ({ s with v := s.v.setIfInBounds k b } : State).reg r = if k = r.val then b else s.reg r := by
      simp [State.reg, Vector.getElem_setIfInBounds]
    rw [hr]
    by_cases h1 : k = r.val
    · have : ¬ (k + 1 ≤ r.val) := by omega
      simp [h1]
    · by_cases h2 : k ≤ r.val
      · have h3 : k + 1 ≤ r.val := by omega
        have h4 : r.val - k = (r.val - (k + 1)) + 1 := by omega
        simp [h1, h2, h3, h4]
      · have h3 : ¬ (k + 1 ≤ r.val) := by omega
        simp [h1, h2, h3]

end Sys2Proof.Machine
end

