-- ==== Sys2Proof/Laws/Ops.lean ====
section
/-! SUPPORT. One lemma per shared operation that says everything it can do: fetch, block transfers, the program-counter
action, faults, operands and flags. -/

namespace Sys2Proof.Machine

/-! ### Completing and faulting -/

@[simp] theorem complete_eq (act : PcAction) (s : State) : complete act s = .next (s.applyPc act) := rfl

@[simp] theorem raiseFault_eq (k : FaultKind) (w : Word) (s : State) : raiseFault k w s = .next (s.withFault k w) := rfl

@[simp] theorem noOp_eq (s : State) : noOp s = .next (s.applyPc .next) := rfl

/-- The state after a program-counter action, written out. -/
theorem State.applyPc_eq (s : State) (act : PcAction) : s.applyPc act = { s with pc := act.target s.pc } := rfl

/-- The state after a fault, written out. -/
theorem State.withFault_eq (s : State) (k : FaultKind) (w : Word) :
    s.withFault k w = { s with fault := { code := k.code, pc := s.pc, word := w } } := rfl

@[simp] theorem PcAction.target_next (pc : Word) : PcAction.next.target pc = pc + 2#16 := rfl
@[simp] theorem PcAction.target_skip (pc : Word) : PcAction.skip.target pc = pc + 4#16 := rfl
@[simp] theorem PcAction.target_jump (t pc : Word) : (PcAction.jump t).target pc = t := rfl

@[simp] theorem target_skipIf (c : Bool) (pc : Word) :
    (skipIf c).target pc = if c then pc + 4#16 else pc + 2#16 := by
  unfold skipIf
  split <;> rfl

/-- No fault kind has the code of "no fault". -/
theorem FaultKind.code_ne_zero (k : FaultKind) : k.code ≠ 0#3 := by cases k <;> decide

theorem FaultKind.code_le (k : FaultKind) : k.code.toNat ≤ 6 := by cases k <;> decide

theorem State.halted_iff (s : State) : s.halted = true ↔ ¬ s.Running := by
  simp [State.halted, State.Running]

/-! ### Memory accesses -/

/-- `FetchWord` answers the two bytes at `PC` or the fetch fault (20_memory.md R54). -/
theorem fetchWord_cases (s : State) :
    (s.pc.toNat ≤ 0xFFE ∧ fetchWord s = .ok (s.mem.read s.pc.toNat ++ s.mem.read (s.pc.toNat + 1))) ∨
    (s.pc.toNat > 0xFFE ∧ fetchWord s = .error .fetchOutOfRange) := by
  unfold fetchWord lastAddr wordOfBytes
  by_cases h : s.pc.toNat ≤ 0xFFE
  · exact .inl ⟨h, by rw [if_neg (by omega)]⟩
  · exact .inr ⟨by omega, by rw [if_pos (by omega)]⟩

/-- A block read answers its bytes or the read fault, and never another fault (R52, R224). -/
theorem readBlock_cases (a n : Nat) (s : State) :
    (a + n - 1 ≤ 0xFFF ∧ readBlock a n s = .ok (s.mem.readBlock a n)) ∨
    (a + n - 1 > 0xFFF ∧ readBlock a n s = .error .readOutOfRange) := by
  unfold readBlock lastAddr
  by_cases h : a + n - 1 ≤ 0xFFF
  · exact .inl ⟨h, by rw [if_neg (by omega)]⟩
  · exact .inr ⟨by omega, by rw [if_pos (by omega)]⟩

/-- A block store changes only memory, or is the write fault (R53, R224). -/
theorem storeBlock_cases (a : Nat) (bs : List Byte) (s : State) :
    (a + bs.length - 1 ≤ 0xFFF ∧ storeBlock a bs s = .ok { s with mem := s.mem.writeBlock a bs }) ∨
    (a + bs.length - 1 > 0xFFF ∧ storeBlock a bs s = .error .writeOutOfRange) := by
  unfold storeBlock lastAddr
  by_cases h : a + bs.length - 1 ≤ 0xFFF
  · exact .inl ⟨h, by rw [if_neg (by omega)]⟩
  · exact .inr ⟨by omega, by rw [if_pos (by omega)]⟩

/-- A store of at least one byte keeps the canonical form of memory. -/
theorem storeBlock_wf {a : Nat} {bs : List Byte} {s t : State} (hne : bs ≠ []) (h : s.mem.wf = true)
    (hs : storeBlock a bs s = .ok t) : t.mem.wf = true := by
  have hlen : 0 < bs.length := List.length_pos_iff.2 hne
  rcases storeBlock_cases a bs s with ⟨hle, he⟩ | ⟨_, he⟩
  · rw [he] at hs
    cases hs
    exact Memory.writeBlock_wf h (by unfold lastAddr; omega)
  · rw [he] at hs
    cases hs

/-- A one-byte write keeps the canonical form of memory (R53). -/
theorem memWrite_wf {a : Nat} {b : Byte} {s t : State} (h : s.mem.wf = true) (hs : memWrite a b s = .ok t) :
    t.mem.wf = true := by
  unfold memWrite at hs
  split at hs
  · cases hs
  · rename_i ha
    cases hs
    exact Memory.write_wf h (by omega)

/-- Load keeps the canonical form of memory (40_engine.md R101). -/
theorem load_wf {image : List Byte} {s : State} (h : s.mem.wf = true) : (load image s).mem.wf = true := by
  refine Memory.writeBlock_wf h ?_
  have : (image.take maxImage).length ≤ maxImage := List.length_take_le _ _
  unfold progBase lastAddr maxImage at *
  omega

/-- Placing an instruction word keeps the canonical form of memory. -/
theorem State.placeWord_wf {a : Nat} {w : Word} {s : State} (h : s.mem.wf = true) : (s.placeWord a w).mem.wf = true := by
  unfold State.placeWord
  split
  · exact h
  · exact Memory.writeBlock_wf h (by simp; omega)

theorem State.reset_mem_wf : State.reset.mem.wf = true := rfl

/-- The registers `Fx55` stores. -/
@[simp] theorem State.length_regsUpTo (s : State) (x : Idx) : (s.regsUpTo x).length = x.val + 1 := by
  have := x.isLt
  simp only [State.regsUpTo, List.length_take, Vector.length_toList]
  omega

theorem State.getD_regsUpTo (s : State) (x k : Idx) (h : k.val ≤ x.val) (d : Byte) :
    (s.regsUpTo x).getD k.val d = s.reg k := by
  have hk : k.val < x.val + 1 := by omega
  simp [State.regsUpTo, State.reg, hk]

/-! ### Operands and flags -/

@[simp] theorem toNat_zextByte (b : Byte) : (zextByte b).toNat = b.toNat := by
  have := b.isLt
  simp only [zextByte, BitVec.toNat_setWidth]
  omega

@[simp] theorem toNat_zextAddr (a : Addr) : (zextAddr a).toNat = a.toNat := by
  have := a.isLt
  simp only [zextAddr, BitVec.toNat_setWidth]
  omega

@[simp] theorem val_lowNibble (b : Byte) : (lowNibble b).val = b.toNat % 16 := by
  simp [lowNibble, BitVec.extractLsb']

/-- Where `1nnn` and `2nnn` land, as a number: it never wraps. -/
theorem State.toNat_jumpTarget (s : State) (nnn : Addr) :
    (s.jumpTarget nnn).toNat = nnn.toNat + (if s.cfg.jumpOffset = .zero then 0 else 2) := by
  have h := nnn.isLt
  unfold State.jumpTarget
  cases hj : s.cfg.jumpOffset <;>
    simp only [jumpOffsetWord, BitVec.toNat_add, toNat_zextAddr, BitVec.toNat_ofNat, reduceCtorEq, if_true, if_false] <;>
    omega

@[simp] theorem deviation_nil {α : Type} [DecidableEq α] (a : α) : deviation [] a = none := rfl

@[simp] theorem deviation_cons {α : Type} [DecidableEq α] (k : α) (f : Byte) (points : List (α × Byte)) (a : α) :
    deviation ((k, f) :: points) a = if k = a then some f else deviation points a := rfl

@[simp] theorem applyFlag_textbook {α : Type} [DecidableEq α] (textbook free : α → Byte) (a : α) :
    applyFlag .textbook textbook free a = textbook a := rfl

@[simp] theorem applyFlag_deviating {α : Type} [DecidableEq α] (points : List (α × Byte)) (textbook free : α → Byte)
    (a : α) : applyFlag (.deviating points) textbook free a = (deviation points a).getD (textbook a) := rfl

@[simp] theorem applyFlag_uninterpreted {α : Type} [DecidableEq α] (textbook free : α → Byte) (a : α) :
    applyFlag .uninterpreted textbook free a = free a := rfl

/-- A flag function has the value the statements name. -/
theorem applyFlag_eq_flagAt {α : Type} [DecidableEq α] (r : FlagFun α) (textbook free : α → Byte) (a : α) :
    applyFlag r textbook free a = flagAt r a (textbook a) (free a) := by
  cases r with
  | textbook => rfl
  | uninterpreted => rfl
  | deviating points =>
    simp only [applyFlag_deviating, flagAt]
    congr 1
    induction points with
    | nil => rfl
    | cons p points ih =>
      obtain ⟨k, f⟩ := p
      by_cases h : k = a
      · simp [h]
      · simp [h, ih]

/-- The key `Fx0A` takes is pressed and no lower one is (45_keys_timers.md R202). -/
theorem State.lowestKey_some {s : State} {k : Fin 16} (h : s.lowestKey = some k) :
    s.keyAt k = true ∧ ∀ j : Fin 16, j.val < k.val → s.keyAt j = false := by
  have hfin : ∀ l : List (Fin 16), l.Pairwise (fun a b => a.val < b.val) →
      ∀ k, l.find? (fun k => s.keyAt k) = some k → s.keyAt k = true ∧ ∀ j ∈ l, j.val < k.val → s.keyAt j = false := by
    intro l
    induction l with
    | nil => intro _ k hk; cases hk
    | cons a l ih =>
      intro hp k hk
      rw [List.pairwise_cons] at hp
      rw [List.find?_cons] at hk
      cases ha : s.keyAt a with
      | true =>
        rw [ha] at hk
        cases hk
        refine ⟨ha, fun j hj hlt => ?_⟩
        rcases List.mem_cons.1 hj with rfl | hj
        · omega
        · have := hp.1 j hj
          omega
      | false =>
        rw [ha] at hk
        have := ih hp.2 k hk
        refine ⟨this.1, fun j hj hlt => ?_⟩
        rcases List.mem_cons.1 hj with rfl | hj
        · exact ha
        · exact this.2 j hj hlt
  have := hfin (List.finRange 16) (by decide) k h
  exact ⟨this.1, fun j hj => this.2 j (List.mem_finRange j) hj⟩

theorem State.lowestKey_none {s : State} : s.lowestKey = none ↔ ∀ k, s.keyAt k = false := by
  simp [State.lowestKey, List.find?_eq_none]

end Sys2Proof.Machine
end

