-- ==== Sys2Proof/Laws/Display.lean ====
section
/-! SUPPORT. What the rasterizer does: each sprite bit of 1 toggles one pixel and reports whether it was on; a draw keeps the
shape of the plane (44_display.md R184 to R188). -/

namespace Sys2Proof.Machine

theorem Plane.shaped_blank (w h : Nat) : (Plane.blank w h).Shaped w h := by
  refine ⟨List.length_replicate, fun row hrow => ?_⟩
  rw [Plane.blank] at hrow
  rw [List.eq_of_mem_replicate hrow, List.length_replicate]

theorem Plane.Shaped.set {w h : Nat} {p : Plane} (hp : p.Shaped w h) (r c : Nat) (b : Bool) :
    (p.set r c b).Shaped w h :=
  ⟨by rw [Plane.length_set, hp.1], Plane.set_rows hp.2 r c b⟩

/-- A pixel after a pixel write inside the plane. -/
theorem Plane.Shaped.get_set {w h : Nat} {p : Plane} (hp : p.Shaped w h) {r c : Nat} (hr : r < h) (hc : c < w)
    (r' c' : Nat) (b : Bool) : (p.set r c b).get r' c' = if r' = r ∧ c' = c then b else p.get r' c' := by
  have hr' : r < p.length := by rw [hp.1]; exact hr
  have hlen : (p.getD r []).length = w := by
    have : p.getD r [] = p[r] := by simp [hr']
    rw [this]
    exact hp.2 _ (List.getElem_mem hr')
  rw [Plane.get_set, hlen]
  simp [hc]

/-- Two planes of one shape with the same pixels are equal. -/
theorem Plane.Shaped.ext {w h : Nat} {p q : Plane} (hp : p.Shaped w h) (hq : q.Shaped w h)
    (heq : ∀ r c, r < h → c < w → p.get r c = q.get r c) : p = q := by
  have hlen : p.length = q.length := by rw [hp.1, hq.1]
  refine List.ext_getElem hlen fun r hr hr' => ?_
  have h1 := hp.2 _ (List.getElem_mem hr)
  have h2 := hq.2 _ (List.getElem_mem hr')
  refine List.ext_getElem (by rw [h1, h2]) fun c hc hc' => ?_
  have := heq r c (by rw [← hp.1]; exact hr) (by rw [← h1]; exact hc)
  simpa [Plane.get, hr, hr', hc, hc'] using this

/-- Bit `bit` of sprite row `row` is a 1 and lands on the pixel in row `r`, column `c`. -/
def hitsPixel (d : DrawAt) (row : Nat) (b : Byte) (r c bit : Nat) : Bool :=
  spriteBit b bit && (d.px bit == c) && (d.py row == r)

/-- One sprite bit: the shape stays, the pixel it hits is toggled and every other pixel kept, and the collision flag is kept
or raised by a hit on a pixel that was on (R184, R188). -/
theorem plotBit_spec {d : DrawAt} (hw : 1 ≤ d.width) (hh : 1 ≤ d.height) {a : Raster}
    (ha : a.plane.Shaped d.width d.height) (row : Nat) (b : Byte) (bit : Nat) :
    (plotBit d row b a bit).plane.Shaped d.width d.height ∧
    (∀ r c, (plotBit d row b a bit).plane.get r c = (a.plane.get r c ^^ hitsPixel d row b r c bit)) ∧
    ((plotBit d row b a bit).col = true ↔
      a.col = true ∨ ∃ r c, hitsPixel d row b r c bit = true ∧ a.plane.get r c = true) := by
  have hx : d.px bit < d.width := Nat.mod_lt _ hw
  have hy : d.py row < d.height := Nat.mod_lt _ hh
  unfold plotBit hitsPixel
  cases hb : spriteBit b bit with
  | false => exact ⟨ha, by simp, by simp⟩
  | true =>
    refine ⟨ha.set _ _ _, fun r c => ?_, ?_⟩
    · simp only [if_true]
      rw [ha.get_set hy hx]
      by_cases hr : r = d.py row
      · by_cases hc : c = d.px bit
        · subst hr hc
          simp
        · have : (d.px bit == c) = false := beq_false_of_ne (fun h => hc h.symm)
          simp [hc, this]
      · have : (d.py row == r) = false := beq_false_of_ne (fun h => hr h.symm)
        simp [hr, this]
    · simp

end Sys2Proof.Machine
end

