-- ==== Sys2Proof/Laws/PerInstr.lean ====
section
/-! SUPPORT. A fact about every instruction, made per constructor: its word matches its own row of spec/opcode_table.json. -/

namespace Sys2Proof.Laws.TableRow

/-- The instruction's row of spec/opcode_table.json; the catch-all row of the no-op has none of its own. -/
def row : Instr → Option Pattern
  | .cls => some ⟨0xFFFF#16, 0x00E0#16⟩
  | .ret => some ⟨0xFFFF#16, 0x00EE#16⟩
  | .jp _ => some ⟨0xF000#16, 0x1000#16⟩
  | .call _ => some ⟨0xF000#16, 0x2000#16⟩
  | .seImm _ _ => some ⟨0xF000#16, 0x3000#16⟩
  | .sneImm _ _ => some ⟨0xF000#16, 0x4000#16⟩
  | .seReg _ _ => some ⟨0xF00F#16, 0x5000#16⟩
  | .ldImm _ _ => some ⟨0xF000#16, 0x6000#16⟩
  | .addImm _ _ => some ⟨0xF000#16, 0x7000#16⟩
  | .ldReg _ _ => some ⟨0xF00F#16, 0x8000#16⟩
  | .orReg _ _ => some ⟨0xF00F#16, 0x8001#16⟩
  | .andReg _ _ => some ⟨0xF00F#16, 0x8002#16⟩
  | .xorReg _ _ => some ⟨0xF00F#16, 0x8003#16⟩
  | .addReg _ _ => some ⟨0xF00F#16, 0x8004#16⟩
  | .subReg _ _ => some ⟨0xF00F#16, 0x8005#16⟩
  | .shr _ _ => some ⟨0xF00F#16, 0x8006#16⟩
  | .subn _ _ => some ⟨0xF00F#16, 0x8007#16⟩
  | .shl _ _ => some ⟨0xF00F#16, 0x800E#16⟩
  | .sneReg _ _ => some ⟨0xF00F#16, 0x9000#16⟩
  | .ldI _ => some ⟨0xF000#16, 0xA000#16⟩
  | .ldIV0 _ => some ⟨0xF000#16, 0xB000#16⟩
  | .rnd _ _ => some ⟨0xF000#16, 0xC000#16⟩
  | .nopDxy0 _ _ => some ⟨0xF00F#16, 0xD000#16⟩
  | .drw _ _ _ => some ⟨0xF000#16, 0xD000#16⟩
  | .skp _ => some ⟨0xF0FF#16, 0xE09E#16⟩
  | .sknp _ => some ⟨0xF0FF#16, 0xE0A1#16⟩
  | .ldVxDt _ => some ⟨0xF0FF#16, 0xF007#16⟩
  | .ldK _ => some ⟨0xF0FF#16, 0xF00A#16⟩
  | .ldDtVx _ => some ⟨0xF0FF#16, 0xF015#16⟩
  | .ldStVx _ => some ⟨0xF0FF#16, 0xF018#16⟩
  | .addI _ => some ⟨0xF0FF#16, 0xF01E#16⟩
  | .ldF _ => some ⟨0xF0FF#16, 0xF029#16⟩
  | .ldB _ => some ⟨0xF0FF#16, 0xF033#16⟩
  | .ldMemRegs _ => some ⟨0xF0FF#16, 0xF055#16⟩
  | .ldRegsMem _ => some ⟨0xF0FF#16, 0xF065#16⟩
  | .nop _ => none

/-- The word of a well-formed instruction matches the instruction's row of the table, and the word of the catch-all no-op
matches no row above it (30_encoding.md R75 to R77). -/
def Statement (i : Instr) : Prop :=
  wellFormed i = true →
    match row i with
    | some p => p.matches (encode i) = true
    | none => unrecognised (encode i) = true

theorem nib_zero : nib 0 = 0#4 := rfl

/-- The bits of a word of format `nnn` under the mask 0xF000. -/
theorem packNnn_mask (n0 : Nibble) (nnn : Addr) : packNnn n0 nnn &&& 0xF000#16 = packNnn n0 0#12 := by
  refine BitVec.eq_of_getLsbD_eq fun i hi => ?_
  simp only [packNnn, BitVec.getLsbD_and, BitVec.getLsbD_append]
  interval_cases i <;> simp

/-- The bits of a word of format `xkk` under the mask 0xF000. -/
theorem packXkk_mask (n0 : Nibble) (x : Idx) (kk : Byte) : packXkk n0 x kk &&& 0xF000#16 = packXkk n0 0 0#8 := by
  refine BitVec.eq_of_getLsbD_eq fun i hi => ?_
  simp only [packXkk, BitVec.getLsbD_and, BitVec.getLsbD_append]
  interval_cases i <;> simp [nib_zero]

/-- The bits of a word of format `x` under the mask 0xF0FF. -/
theorem packX_mask (n0 : Nibble) (x : Idx) (kk : Byte) : packXkk n0 x kk &&& 0xF0FF#16 = packXkk n0 0 kk := by
  refine BitVec.eq_of_getLsbD_eq fun i hi => ?_
  simp only [packXkk, BitVec.getLsbD_and, BitVec.getLsbD_append]
  interval_cases i <;> simp [nib_zero]

/-- The bits of a word of format `xy` under the mask 0xF00F. -/
theorem packXy_mask (n0 : Nibble) (x y : Idx) (n3 : Nibble) : packXyn n0 x y n3 &&& 0xF00F#16 = packXyn n0 0 0 n3 := by
  refine BitVec.eq_of_getLsbD_eq fun i hi => ?_
  simp only [packXyn, BitVec.getLsbD_and, BitVec.getLsbD_append]
  interval_cases i <;> simp [nib_zero]

/-- The bits of a word of format `xyn` under the mask 0xF000. -/
theorem packXyn_mask (n0 : Nibble) (x y : Idx) (n3 : Nibble) : packXyn n0 x y n3 &&& 0xF000#16 = packXyn n0 0 0 0#4 := by
  refine BitVec.eq_of_getLsbD_eq fun i hi => ?_
  simp only [packXyn, BitVec.getLsbD_and, BitVec.getLsbD_append]
  interval_cases i <;> simp [nib_zero]

theorem cls : Statement .cls := fun _ => by
  simp only [row]
  decide

theorem ret : Statement .ret := fun _ => by
  simp only [row]
  decide

theorem jp (nnn : Addr) : Statement (.jp nnn) := fun _ => by
  simp only [row, Pattern.matches, encode, beq_iff_eq]
  exact (packNnn_mask ..).trans (by decide)

theorem call (nnn : Addr) : Statement (.call nnn) := fun _ => by
  simp only [row, Pattern.matches, encode, beq_iff_eq]
  exact (packNnn_mask ..).trans (by decide)

theorem seImm (x : Idx) (kk : Byte) : Statement (.seImm x kk) := fun _ => by
  simp only [row, Pattern.matches, encode, beq_iff_eq]
  exact (packXkk_mask ..).trans (by decide)

theorem sneImm (x : Idx) (kk : Byte) : Statement (.sneImm x kk) := fun _ => by
  simp only [row, Pattern.matches, encode, beq_iff_eq]
  exact (packXkk_mask ..).trans (by decide)

theorem seReg (x y : Idx) : Statement (.seReg x y) := fun _ => by
  simp only [row, Pattern.matches, encode, beq_iff_eq]
  exact (packXy_mask ..).trans (by decide)

theorem ldImm (x : Idx) (kk : Byte) : Statement (.ldImm x kk) := fun _ => by
  simp only [row, Pattern.matches, encode, beq_iff_eq]
  exact (packXkk_mask ..).trans (by decide)

theorem addImm (x : Idx) (kk : Byte) : Statement (.addImm x kk) := fun _ => by
  simp only [row, Pattern.matches, encode, beq_iff_eq]
  exact (packXkk_mask ..).trans (by decide)

theorem ldReg (x y : Idx) : Statement (.ldReg x y) := fun _ => by
  simp only [row, Pattern.matches, encode, beq_iff_eq]
  exact (packXy_mask ..).trans (by decide)

theorem orReg (x y : Idx) : Statement (.orReg x y) := fun _ => by
  simp only [row, Pattern.matches, encode, beq_iff_eq]
  exact (packXy_mask ..).trans (by decide)

theorem andReg (x y : Idx) : Statement (.andReg x y) := fun _ => by
  simp only [row, Pattern.matches, encode, beq_iff_eq]
  exact (packXy_mask ..).trans (by decide)

theorem xorReg (x y : Idx) : Statement (.xorReg x y) := fun _ => by
  simp only [row, Pattern.matches, encode, beq_iff_eq]
  exact (packXy_mask ..).trans (by decide)

theorem addReg (x y : Idx) : Statement (.addReg x y) := fun _ => by
  simp only [row, Pattern.matches, encode, beq_iff_eq]
  exact (packXy_mask ..).trans (by decide)

theorem subReg (x y : Idx) : Statement (.subReg x y) := fun _ => by
  simp only [row, Pattern.matches, encode, beq_iff_eq]
  exact (packXy_mask ..).trans (by decide)

theorem shr (x y : Idx) : Statement (.shr x y) := fun _ => by
  simp only [row, Pattern.matches, encode, beq_iff_eq]
  exact (packXy_mask ..).trans (by decide)

theorem subn (x y : Idx) : Statement (.subn x y) := fun _ => by
  simp only [row, Pattern.matches, encode, beq_iff_eq]
  exact (packXy_mask ..).trans (by decide)

theorem shl (x y : Idx) : Statement (.shl x y) := fun _ => by
  simp only [row, Pattern.matches, encode, beq_iff_eq]
  exact (packXy_mask ..).trans (by decide)

theorem sneReg (x y : Idx) : Statement (.sneReg x y) := fun _ => by
  simp only [row, Pattern.matches, encode, beq_iff_eq]
  exact (packXy_mask ..).trans (by decide)

theorem ldI (nnn : Addr) : Statement (.ldI nnn) := fun _ => by
  simp only [row, Pattern.matches, encode, beq_iff_eq]
  exact (packNnn_mask ..).trans (by decide)

theorem ldIV0 (nnn : Addr) : Statement (.ldIV0 nnn) := fun _ => by
  simp only [row, Pattern.matches, encode, beq_iff_eq]
  exact (packNnn_mask ..).trans (by decide)

theorem rnd (x : Idx) (kk : Byte) : Statement (.rnd x kk) := fun _ => by
  simp only [row, Pattern.matches, encode, beq_iff_eq]
  exact (packXkk_mask ..).trans (by decide)

theorem nopDxy0 (x y : Idx) : Statement (.nopDxy0 x y) := fun _ => by
  simp only [row, Pattern.matches, encode, beq_iff_eq]
  exact (packXy_mask ..).trans (by decide)

theorem drw (x y : Idx) (n : Fin 16) : Statement (.drw x y n) := fun _ => by
  simp only [row, Pattern.matches, encode, beq_iff_eq]
  exact (packXyn_mask ..).trans (by decide)

theorem skp (x : Idx) : Statement (.skp x) := fun _ => by
  simp only [row, Pattern.matches, encode, beq_iff_eq]
  exact (packX_mask ..).trans (by decide)

theorem sknp (x : Idx) : Statement (.sknp x) := fun _ => by
  simp only [row, Pattern.matches, encode, beq_iff_eq]
  exact (packX_mask ..).trans (by decide)

theorem ldVxDt (x : Idx) : Statement (.ldVxDt x) := fun _ => by
  simp only [row, Pattern.matches, encode, beq_iff_eq]
  exact (packX_mask ..).trans (by decide)

theorem ldK (x : Idx) : Statement (.ldK x) := fun _ => by
  simp only [row, Pattern.matches, encode, beq_iff_eq]
  exact (packX_mask ..).trans (by decide)

theorem ldDtVx (x : Idx) : Statement (.ldDtVx x) := fun _ => by
  simp only [row, Pattern.matches, encode, beq_iff_eq]
  exact (packX_mask ..).trans (by decide)

theorem ldStVx (x : Idx) : Statement (.ldStVx x) := fun _ => by
  simp only [row, Pattern.matches, encode, beq_iff_eq]
  exact (packX_mask ..).trans (by decide)

theorem addI (x : Idx) : Statement (.addI x) := fun _ => by
  simp only [row, Pattern.matches, encode, beq_iff_eq]
  exact (packX_mask ..).trans (by decide)

theorem ldF (x : Idx) : Statement (.ldF x) := fun _ => by
  simp only [row, Pattern.matches, encode, beq_iff_eq]
  exact (packX_mask ..).trans (by decide)

theorem ldB (x : Idx) : Statement (.ldB x) := fun _ => by
  simp only [row, Pattern.matches, encode, beq_iff_eq]
  exact (packX_mask ..).trans (by decide)

theorem ldMemRegs (x : Idx) : Statement (.ldMemRegs x) := fun _ => by
  simp only [row, Pattern.matches, encode, beq_iff_eq]
  exact (packX_mask ..).trans (by decide)

theorem ldRegsMem (x : Idx) : Statement (.ldRegsMem x) := fun _ => by
  simp only [row, Pattern.matches, encode, beq_iff_eq]
  exact (packX_mask ..).trans (by decide)

theorem nop (w : Word) : Statement (.nop w) := fun h => h

end Sys2Proof.Laws.TableRow
end

