-- ==== Sys2Proof/Tests/Slice0.lean ====
section
/-! SUPPORT. Tests. Expected values come from spec/95_test_vectors.md (the vector is named in each comment) or are worked out
by hand from the rule named; the witnesses at the end show that the hypotheses of each statement can be met together. -/

namespace Sys2Proof.Tests

open Sys2Proof Sys2Proof.Machine

/-- One observation of a next state. -/
def observe {α : Type} (o : Host.Outcome State Fault Refusal) (f : State → α) : Option α :=
  match o with
  | .next t => some (f t)
  | .fault _ => none
  | .refused _ => none

/-- The base state of the vectors, Create(64, 32). -/
abbrev base : State := State.reset

/-- A machine that stands at `a` with the word `w` there. -/
def codeAt (a : Word) (w : Word) (s : State) : State := { s.placeWord a.toNat w with pc := a }

/-- The machine with the given bytes from `a` upwards. -/
def bytesAt (a : Nat) (bs : List Byte) (s : State) : State := { s with mem := s.mem.writeBlock a bs }

/-- The machine with one pixel on, in both planes. -/
def pixelOn (r c : Nat) (s : State) : State := { s with disp := s.disp.set r c true, scr := s.disp.set r c true }

/-- The machine with `IMPL_DOC_OPS = false`. -/
def inert (s : State) : State := { s with cfg := { s.cfg with implDocOps := false } }

/-- The machine with `ALU_FLAG_WRITE_LAST = false`. -/
def resultLast (s : State) : State := { s with cfg := { s.cfg with aluFlagWriteLast := false } }

/-- The machine whose `ADD_FLAG(1, 2)` is 7. -/
def oddCarry (s : State) : State := { s with cfg := { s.cfg with addFlag := .deviating [((1#8, 2#8), 7#8)] } }

/-- The machine with `JUMP_TARGET_OFFSET = 2`. -/
def jumpTwo (s : State) : State := { s with cfg := { s.cfg with jumpOffset := .two } }

/-- A machine with an 8 by 1 display, the smallest row a sprite byte does not wrap in. -/
abbrev small : State := create 8 1

/-! ### Well-formedness: one ill-formed term for each check -/

theorem test_drw_without_rows_is_ill_formed : wellFormed (.drw 1 2 0) = false := by decide
theorem test_nop_of_a_recognised_word_is_ill_formed : wellFormed (.nop 0x00E0#16) = false := by decide
theorem test_nop_of_Dxy0_is_ill_formed : wellFormed (.nop 0xD120#16) = false := by decide
theorem test_drw_is_well_formed : wellFormed (.drw 1 2 15) = true := by decide

/-! ### Decoding: every constructor, by a word written from the table's encoding -/

theorem test_decode_families_0_to_7 :
    decodeWord 0b0000000011100000#16 = .cls ∧ decodeWord 0b0000000011101110#16 = .ret ∧
    decodeWord 0b0001001000110100#16 = .jp 0x234#12 ∧ decodeWord 0b0010001000001010#16 = .call 0x20A#12 ∧
    decodeWord 0b0011001100010000#16 = .seImm 3 0x10#8 ∧ decodeWord 0b0100001100010001#16 = .sneImm 3 0x11#8 ∧
    decodeWord 0b0101000100100000#16 = .seReg 1 2 ∧ decodeWord 0b0110101001111011#16 = .ldImm 0xA 0x7B#8 ∧
    decodeWord 0b0111000000000001#16 = .addImm 0 1#8 := by decide

theorem test_decode_family_8 :
    decodeWord 0b1000001101010000#16 = .ldReg 3 5 ∧ decodeWord 0b1000001101010001#16 = .orReg 3 5 ∧
    decodeWord 0b1000001101010010#16 = .andReg 3 5 ∧ decodeWord 0b1000001101010011#16 = .xorReg 3 5 ∧
    decodeWord 0b1000001101010100#16 = .addReg 3 5 ∧ decodeWord 0b1000001101010101#16 = .subReg 3 5 ∧
    decodeWord 0b1000001101010110#16 = .shr 3 5 ∧ decodeWord 0b1000001101010111#16 = .subn 3 5 ∧
    decodeWord 0b1000001101011110#16 = .shl 3 5 := by decide

theorem test_decode_families_9_to_D :
    decodeWord 0b1001000100100000#16 = .sneReg 1 2 ∧ decodeWord 0b1010001100000000#16 = .ldI 0x300#12 ∧
    decodeWord 0b1011001100000000#16 = .ldIV0 0x300#12 ∧ decodeWord 0b1100001100001111#16 = .rnd 3 0x0F#8 ∧
    decodeWord 0b1101000100100000#16 = .nopDxy0 1 2 ∧ decodeWord 0b1101000100101111#16 = .drw 1 2 15 := by decide

theorem test_decode_families_E_and_F :
    decodeWord 0b1110000110011110#16 = .skp 1 ∧ decodeWord 0b1110000110100001#16 = .sknp 1 ∧
    decodeWord 0b1111001000000111#16 = .ldVxDt 2 ∧ decodeWord 0b1111001100001010#16 = .ldK 3 ∧
    decodeWord 0b1111001000010101#16 = .ldDtVx 2 ∧ decodeWord 0b1111001000011000#16 = .ldStVx 2 ∧
    decodeWord 0b1111001000011110#16 = .addI 2 ∧ decodeWord 0b1111010100101001#16 = .ldF 5 ∧
    decodeWord 0b1111000000110011#16 = .ldB 0 ∧ decodeWord 0b1111000101010101#16 = .ldMemRegs 1 ∧
    decodeWord 0b1111001001100101#16 = .ldRegsMem 2 := by decide

/-- T-ENG-3: each of these is the no-op. -/
theorem test_decode_unrecognised_words :
    ([0x5121, 0x9121, 0x8128, 0x812D, 0x812F, 0xE19F, 0xE1A0, 0xF130, 0xF175, 0xF185, 0xF100, 0x00C5, 0x00FB, 0x00FF,
      0x00E1, 0x0EE0, 0x0000] : List Word).all (fun w => decodeWord w == .nop w) = true := by decide

theorem test_decode_bytes_is_big_endian : decodeBytes [0x12#8, 0x34#8, 0xAA#8] = .ok (.jp 0x234#12, [0xAA#8]) := by decide
theorem test_decode_one_byte_is_truncated : decodeBytes [0x12#8] = .error .truncated := by decide
theorem test_encode_bytes : encodeBytes (.drw 1 2 15) = [0xD1#8, 0x2F#8] := by decide
theorem test_decode_table_word : decodeTableWord 16 0x8014 = some (.addReg 0 1) := by decide

/-- The placed word runs as the first instruction after reset: `6A7B` loads `VA` (R131). -/
theorem test_placed_word_runs :
    observe (step (State.reset.withFetchWord 16 0x6A7B)) (fun t => (t.reg 0xA, t.pc)) = some (0x7B#8, 0x202#16) := by decide

/-! ### Engine -/

/-- T-ENG-1: the all-zero word at creation is the no-op. -/
theorem test_zero_word_is_no_op : observe (step base) (fun t => t.pc) = some 0x202#16 := by decide

/-- T-ENG-4: the last address a word can be fetched from. -/
theorem test_fetch_at_FFE :
    observe (step (codeAt 0xFFE 0x00E0 base)) (fun t => (t.pc, t.fault.code)) = some (0x1000#16, 0#3) := by decide

/-- T-ENG-5: the fetch fault. -/
theorem test_fetch_fault :
    observe (step { base with pc := 0x1000#16 }) (fun t => (t.fault, t.pc)) =
      some ({ code := 1#3, pc := 0x1000#16, word := 0#16 }, 0x1000#16) := by decide

/-- T-ENG-7: a faulted machine stands still. -/
theorem test_faulted_machine_stands_still :
    observe (step (codeAt 0x200 0x6A7B { base with fault := ⟨3#3, 0x200#16, 0x00EE#16⟩ })) (fun t => (t.pc, t.reg 0xA)) =
      some (0x200#16, 0#8) := by decide

/-! ### Control flow -/

/-- T-CF-1: the two values of JUMP_TARGET_OFFSET. -/
theorem test_jp : observe (step (codeAt 0x200 0x1234 base)) (fun t => t.pc) = some 0x234#16 := by decide
theorem test_jp_offset_two : observe (step (codeAt 0x200 0x1234 (jumpTwo base))) (fun t => t.pc) = some 0x236#16 := by
  decide

/-- T-CF-3. -/
theorem test_call :
    observe (step (codeAt 0x204 0x220A base)) (fun t => (t.sp, t.stackAt 1, t.pc)) = some (1, 0x204#16, 0x20A#16) := by
  decide

/-- T-CF-4. -/
theorem test_call_overflow :
    observe (step (codeAt 0x200 0x2300 { base with sp := 15 })) (fun t => (t.fault, t.sp, t.pc)) =
      some ({ code := 2#3, pc := 0x200#16, word := 0x2300#16 }, 15, 0x200#16) := by decide

/-- R110's example. -/
theorem test_ret :
    observe (step (codeAt 0x20C 0x00EE ((base.setSp 1).setStack 1 0x204#16))) (fun t => (t.sp, t.pc)) =
      some (0, 0x206#16) := by decide

/-- T-CF-6. -/
theorem test_ret_underflow :
    observe (step (codeAt 0x200 0x00EE base)) (fun t => (t.fault, t.pc)) =
      some ({ code := 3#3, pc := 0x200#16, word := 0x00EE#16 }, 0x200#16) := by decide

/-- T-CF-5 and T-CF-7. -/
theorem test_se_imm :
    observe (step (codeAt 0x200 0x3310 (base.setReg 3 0x10))) (fun t => t.pc) = some 0x204#16 ∧
    observe (step (codeAt 0x200 0x3311 (base.setReg 3 0x10))) (fun t => t.pc) = some 0x202#16 := by decide
theorem test_sne_imm :
    observe (step (codeAt 0x200 0x4310 (base.setReg 3 0x10))) (fun t => t.pc) = some 0x202#16 ∧
    observe (step (codeAt 0x200 0x4311 (base.setReg 3 0x10))) (fun t => t.pc) = some 0x204#16 := by decide

/-- T-CF-8, T-CF-10 and T-CF-9. -/
theorem test_se_reg :
    observe (step (codeAt 0x200 0x5110 (base.setReg 1 0x7F))) (fun t => t.pc) = some 0x204#16 ∧
    observe (step (codeAt 0x200 0x5120 ((base.setReg 1 1).setReg 2 2))) (fun t => t.pc) = some 0x202#16 := by decide
theorem test_sne_reg :
    observe (step (codeAt 0x200 0x9110 (base.setReg 1 0x7F))) (fun t => t.pc) = some 0x202#16 ∧
    observe (step (codeAt 0x200 0x9120 ((base.setReg 1 1).setReg 2 2))) (fun t => t.pc) = some 0x204#16 := by decide

/-- T-CF-12, the first Cycle. -/
theorem test_Bnnn :
    observe (step (codeAt 0x200 0xBFFF (base.setReg 0 0xFF))) (fun t => (t.i, t.pc)) = some (0x10FE#16, 0x202#16) := by
  decide

/-! ### ALU -/

/-- T-ALU-2 and T-ALU-3. -/
theorem test_add_imm_wraps :
    observe (step (codeAt 0x200 0x7001 ((base.setReg 0 0xFF).setReg 15 0x55))) (fun t => (t.reg 0, t.reg 15)) =
      some (0#8, 0x55#8) := by decide
theorem test_add_imm_to_vf :
    observe (step (codeAt 0x200 0x7F01 (base.setReg 15 0xFF))) (fun t => t.reg 15) = some 0#8 := by decide

/-- T-ALU-22. -/
theorem test_ld_reg_to_vf :
    observe (step (codeAt 0x200 0x8F10 (base.setReg 1 0x42))) (fun t => t.reg 15) = some 0x42#8 := by decide

/-- T-ALU-20. -/
theorem test_or : observe (step (codeAt 0x200 0x8011 (((base.setReg 0 0xF0).setReg 1 0x0F).setReg 15 0x77)))
    (fun t => (t.reg 0, t.reg 15)) = some (0xFF#8, 0x77#8) := by decide
theorem test_and : observe (step (codeAt 0x200 0x8012 (((base.setReg 0 0xF0).setReg 1 0x3C).setReg 15 0x77)))
    (fun t => (t.reg 0, t.reg 15)) = some (0x30#8, 0x77#8) := by decide
theorem test_xor : observe (step (codeAt 0x200 0x8013 (((base.setReg 0 0xFF).setReg 1 0x0F).setReg 15 0x77)))
    (fun t => (t.reg 0, t.reg 15)) = some (0xF0#8, 0x77#8) := by decide

/-- T-ALU-15, both write orders; the sum is also a carry. -/
theorem test_add_reg_to_vf :
    observe (step (codeAt 0x200 0x8F14 ((base.setReg 15 0x80).setReg 1 0x90))) (fun t => t.reg 15) = some 1#8 ∧
    observe (step (codeAt 0x200 0x8F14 (resultLast ((base.setReg 15 0x80).setReg 1 0x90)))) (fun t => t.reg 15) =
      some 0x10#8 := by decide

/-- R10: one given `ADD_FLAG` that deviates at (1, 2) only; the sum is as ever and `8xy5` keeps its textbook flag. -/
theorem test_given_add_flag :
    observe (step (codeAt 0x200 0x8014 (oddCarry ((base.setReg 0 1).setReg 1 2)))) (fun t => (t.reg 0, t.reg 15)) =
      some (3#8, 7#8) ∧
    observe (step (codeAt 0x200 0x8015 (oddCarry ((base.setReg 0 1).setReg 1 1)))) (fun t => (t.reg 0, t.reg 15)) =
      some (0#8, 1#8) := by decide

/-- T-ALU-18: `y = F` reads the old `VF`. -/
theorem test_add_reg_reads_old_vf :
    observe (step (codeAt 0x200 0x80F4 ((base.setReg 0 1).setReg 15 0xFF))) (fun t => (t.reg 0, t.reg 15)) =
      some (0#8, 1#8) := by decide

/-- T-ALU-6 and T-ALU-7. -/
theorem test_sub_borrows :
    observe (step (codeAt 0x200 0x8015 ((base.setReg 0 5).setReg 1 0xA))) (fun t => (t.reg 0, t.reg 15)) =
      some (0xFB#8, 0#8) := by decide
theorem test_sub_equal :
    observe (step (codeAt 0x200 0x8015 ((base.setReg 0 0x33).setReg 1 0x33))) (fun t => (t.reg 0, t.reg 15)) =
      some (0#8, 1#8) := by decide

/-- T-ALU-9 and T-ALU-10. -/
theorem test_subn :
    observe (step (codeAt 0x200 0x8017 ((base.setReg 0 5).setReg 1 0xA))) (fun t => (t.reg 0, t.reg 15)) =
      some (5#8, 1#8) := by decide
theorem test_subn_borrows :
    observe (step (codeAt 0x200 0x8017 ((base.setReg 0 0xA).setReg 1 5))) (fun t => (t.reg 0, t.reg 15)) =
      some (0xFB#8, 0#8) := by decide

/-- T-ALU-11 and T-ALU-16. -/
theorem test_shr_ignores_y :
    observe (step (codeAt 0x200 0x8016 ((base.setReg 0 4).setReg 1 0xFF))) (fun t => (t.reg 0, t.reg 1, t.reg 15)) =
      some (2#8, 0xFF#8, 0#8) := by decide
theorem test_shr_of_vf :
    observe (step (codeAt 0x200 0x8F06 (resultLast (base.setReg 15 2)))) (fun t => t.reg 15) = some 1#8 := by decide

/-- R148's example and T-ALU-17. -/
theorem test_shl :
    observe (step (codeAt 0x200 0x840E (base.setReg 4 0x81))) (fun t => (t.reg 4, t.reg 15)) = some (2#8, 1#8) := by decide
theorem test_shl_of_vf :
    observe (step (codeAt 0x200 0x8F0E (base.setReg 15 0x81))) (fun t => t.reg 15) = some 1#8 := by decide

/-- T-ALU-24: any random byte AND 0 is 0. -/
theorem test_rnd_masked_by_zero :
    observe (step (codeAt 0x200 0xC000 (base.setReg 0 0x77))) (fun t => (t.reg 0, t.rndDraws)) = some (0#8, 1) := by
  simp [observe, step, codeAt, State.placeWord, base, State.reset, State.create, State.halted, fetchWord, Memory.writeBlock,
    Memory.write, Memory.read, highByte, lowByte, wordOfBytes, decodeWord, dispatch, Fields.split, Fields.x, Fields.kk,
    exec, execRnd, complete, State.applyPc, State.consumeRnd, State.setReg, State.reg, State.rndByte, lastAddr,
    unlistedByte]

/-! ### Index register and memory -/

/-- T-IM-1. -/
theorem test_ld_i : observe (step (codeAt 0x200 0xAFFF base)) (fun t => t.i) = some 0x0FFF#16 := by decide

/-- T-IM-3 and T-IM-4. -/
theorem test_add_i_no_12_bit_wrap :
    observe (step (codeAt 0x200 0xF01E ((base.setReg 0 1).setI 0x0FFF))) (fun t => t.i) = some 0x1000#16 := by decide
theorem test_add_i_wraps :
    observe (step (codeAt 0x200 0xF01E (((base.setReg 0 1).setReg 15 0x55).setI 0xFFFF))) (fun t => (t.i, t.reg 15)) =
      some (0#16, 0x55#8) := by decide

/-- T-IM-6 and T-IM-7. -/
theorem test_ld_f :
    observe (step (codeAt 0x200 0xF529 (base.setReg 5 0x1F))) (fun t => t.i) = some 0x4B#16 := by decide
theorem test_ld_f_inert :
    observe (step (codeAt 0x200 0xF529 (inert ((base.setReg 5 0xA).setI 0x123)))) (fun t => (t.i, t.pc)) =
      some (0x123#16, 0x202#16) := by decide

/-- T-IM-8 and T-IM-12. -/
theorem test_ld_b :
    observe (step (codeAt 0x200 0xF033 ((base.setReg 0 0xFE).setI 0x300)))
      (fun t => (t.mem.read 0x300, t.mem.read 0x301, t.mem.read 0x302)) = some (2#8, 5#8, 4#8) := by decide
theorem test_ld_b_fault :
    observe (step (codeAt 0x200 0xF033 ((base.setReg 0 9).setI 0xFFE))) (fun t => (t.fault, t.mem.read 0xFFE, t.pc)) =
      some ({ code := 5#3, pc := 0x200#16, word := 0xF033#16 }, 0#8, 0x200#16) := by decide

/-- T-IM-14 and T-IM-16. -/
theorem test_store_regs :
    observe (step (codeAt 0x200 0xF155 (((base.setReg 0 1).setReg 1 2).setI 0x300)))
      (fun t => (t.mem.read 0x300, t.mem.read 0x301, t.i)) = some (1#8, 2#8, 0x300#16) := by decide
theorem test_store_regs_fault :
    observe (step (codeAt 0x200 0xFF55 ((base.setReg 0 7).setI 0xFF1))) (fun t => (t.fault, t.mem.read 0xFF1)) =
      some ({ code := 5#3, pc := 0x200#16, word := 0xFF55#16 }, 0#8) := by decide

/-- T-IM-17 and T-IM-19. -/
theorem test_load_regs :
    observe (step (codeAt 0x200 0xF265 (bytesAt 0x300 [2, 5, 4] ((base.setReg 3 9).setI 0x300))))
      (fun t => (t.reg 0, t.reg 1, t.reg 2, t.reg 3)) = some (2#8, 5#8, 4#8, 9#8) := by decide
theorem test_load_regs_fault :
    observe (step (codeAt 0x200 0xF165 ((base.setReg 0 7).setI 0xFFF))) (fun t => (t.fault, t.reg 0)) =
      some ({ code := 4#3, pc := 0x200#16, word := 0xF165#16 }, 7#8) := by decide

/-! ### Display -/

/-- T-DSP-1: `VF` is kept. -/
theorem test_cls :
    observe (step (codeAt 0x200 0x00E0 (pixelOn 0 3 (small.setReg 15 0x55)))) (fun t => (t.disp, t.reg 15)) =
      some ([[false, false, false, false, false, false, false, false]], 0x55#8) := by decide

/-- T-DSP-13 (a sprite that hits one column twice on a 4 by 1 display), and, after T-DSP-6, 0xC0 at column 7 of an 8 by 1
display: the leftmost bits land in columns 7 and 0. -/
theorem test_drw :
    observe (step (codeAt 0x200 0xD011 (bytesAt 0x300 [0xC0] ((small.setReg 0 0xFF).setI 0x300))))
      (fun t => (t.disp, t.reg 15)) = some ([[true, false, false, false, false, false, false, true]], 0#8) ∧
    observe (step (codeAt 0x200 0xD001 (bytesAt 0x300 [0x88] ((create 4 1).setI 0x300)))) (fun t => (t.disp, t.reg 15)) =
      some ([[false, false, false, false]], 1#8) := by decide

/-- T-DSP-12: the fault comes before any pixel. -/
theorem test_drw_fault :
    observe (step (codeAt 0x200 0xD00F (pixelOn 0 0 (small.setI 0xFF2)))) (fun t => (t.fault, t.disp.get 0 0)) =
      some ({ code := 4#3, pc := 0x200#16, word := 0xD00F#16 }, true) := by decide

/-- T-DSP-9. -/
theorem test_Dxy0 :
    observe (step (codeAt 0x200 0xD120 (small.setReg 15 0x55))) (fun t => (t.pc, t.reg 15)) = some (0x202#16, 0x55#8) := by
  decide

/-! ### Keypad and timers -/

/-- T-KT-1, T-KT-2 and T-KT-5. -/
theorem test_skp :
    observe (step (codeAt 0x200 0xE19E ((base.setReg 1 5).setKey 5 true))) (fun t => t.pc) = some 0x204#16 ∧
    observe (step (codeAt 0x200 0xE19E (base.setReg 1 5))) (fun t => t.pc) = some 0x202#16 := by decide
theorem test_skp_fault :
    observe (step (codeAt 0x200 0xE09E (base.setReg 0 0x10))) (fun t => t.fault) =
      some { code := 6#3, pc := 0x200#16, word := 0xE09E#16 } := by decide

/-- T-KT-3, T-KT-4 and T-KT-6. -/
theorem test_sknp :
    observe (step (codeAt 0x200 0xE1A1 (base.setReg 1 5))) (fun t => t.pc) = some 0x204#16 ∧
    observe (step (codeAt 0x200 0xE1A1 ((base.setReg 1 5).setKey 5 true))) (fun t => t.pc) = some 0x202#16 := by decide
theorem test_sknp_inert :
    observe (step (codeAt 0x200 0xE0A1 (inert (base.setReg 0 0x10)))) (fun t => (t.pc, t.fault.code)) =
      some (0x202#16, 0#3) := by decide

/-- T-KT-7 and T-KT-9. -/
theorem test_key_wait :
    observe (step (codeAt 0x240 0xF30A (base.setReg 3 0x77))) (fun t => (t.pc, t.reg 3)) = some (0x240#16, 0x77#8) := by
  decide
theorem test_key_lowest :
    observe (step (codeAt 0x200 0xF00A ((base.setKey 3 true).setKey 9 true))) (fun t => (t.pc, t.reg 0)) =
      some (0x202#16, 3#8) := by decide

/-- T-KT-14, R204's example, T-KT-13. -/
theorem test_ld_vx_dt : observe (step (codeAt 0x200 0xFF07 (base.setDt 5))) (fun t => t.reg 15) = some 5#8 := by decide
theorem test_ld_dt_vx :
    observe (step (codeAt 0x200 0xF215 (base.setReg 2 0x3C))) (fun t => (t.dt, t.st)) = some (0x3C#8, 0#8) := by decide
theorem test_ld_st_vx :
    observe (step (codeAt 0x200 0xF018 (base.setReg 0 0x20))) (fun t => (t.st, t.dt)) = some (0x20#8, 0#8) := by decide

/-! ### Host operations -/

/-- T-ENG-10 and T-ENG-9 (the truncation by its length alone). -/
theorem test_load : (load [0x12#8, 0x00#8] base).mem = [(0x200, 0x12#8)] := by decide
/-- T-ENG-11. -/
theorem test_timer_tick :
    (timerTick ((base.setDt 2).setSt 0)).dt = 1#8 ∧ (timerTick ((base.setDt 0).setSt 0)).st = 0#8 := by decide
/-- T-ENG-12. -/
theorem test_key_set : (keySet 5 false (keySet 5 true base)).keyAt 5 = false ∧ (keySet 5 true base).keyAt 5 = true := by
  decide
/-- T-ENG-13. -/
theorem test_timer_set_get : timerGet .delay (timerSet .delay 0x3C#8 base) = 0x3C#8 := by decide

/-! ### Witnesses: the hypotheses of each statement, met together, at the boundary of each clause -/

/-- A running machine with a small display on which one pixel is on, standing at the last address a word fits. -/
def running : State := { pixelOn 0 0 small with pc := 0xFFE#16 }

theorem witness_DecodeOfEncodeIsTheInstruction :
    wellFormed (.drw 15 15 15) = true ∧ wellFormed (.drw 0 0 1) = true ∧ wellFormed (.nop 0x5121#16) = true ∧
    wellFormed (.jp 0xFFF#12) = true := by decide

theorem witness_UnrecognisedWordsAdvanceByTwo :
    (∀ p ∈ opcodeRows, 0x00E1#16 &&& p.mask ≠ p.value) ∧ (∀ p ∈ opcodeRows, 0xFFFF#16 &&& p.mask ≠ p.value) ∧
    0xD120#16 &&& 0xF00F#16 = 0xD000#16 := by decide

theorem witness_NoOpHandlerWritesNothing : (inert running).cfg.implDocOps = false := by decide

theorem witness_StepRunsTheDecodedInstruction :
    running.Running ∧ running.pc.toNat ≤ 0xFFE ∧
    decodeBytes [running.mem.read running.pc.toNat, running.mem.read (running.pc.toNat + 1)] = .ok (.nop 0#16, []) := by
  decide

theorem witness_FetchReadsBigEndianOrFaults :
    running.pc.toNat ≤ 0xFFE ∧ ({ running with pc := 0xFFF#16 } : State).pc.toNat > 0xFFE ∧
    ({ running with pc := 0xFFF#16 } : State).Running := by decide

/-- A halted machine: `00EE` with an empty stack. -/
def halted : State := { running with fault := ⟨3#3, 0xFFE#16, 0x00EE#16⟩ }

theorem witness_FaultedMachineStandsStill : ¬ halted.Running := by decide

theorem witness_FaultsExactlyWhenTableSays :
    faultCondition .ret running = some .stackUnderflow ∧ faultCondition .ret (running.setSp 1) = none ∧
    faultCondition (.call 0) (running.setSp 15) = some .stackOverflow ∧
    faultCondition (.call 0) (running.setSp 14) = none ∧
    faultCondition (.drw 0 0 15) (running.setI 0xFF2) = some .readOutOfRange ∧
    faultCondition (.drw 0 0 15) (running.setI 0xFF1) = none ∧
    faultCondition (.ldRegsMem 15) (running.setI 0xFF1) = some .readOutOfRange ∧
    faultCondition (.ldB 0) (running.setI 0xFFE) = some .writeOutOfRange ∧
    faultCondition (.ldMemRegs 0) (running.setI 0x1000) = some .writeOutOfRange ∧
    faultCondition (.ldMemRegs 0) (running.setI 0xFFF) = none ∧
    faultCondition (.skp 0) (running.setReg 0 0x10) = some .keyIndexOutOfRange ∧
    faultCondition (.sknp 0) (running.setReg 0 0x0F) = none := by decide

theorem witness_CycleFaultsArePrecise :
    ∃ t, step (codeAt 0x200 0x00EE running) = .next t ∧ t.fault ≠ (codeAt 0x200 0x00EE running).fault :=
  ⟨(codeAt 0x200 0x00EE running).withFault .stackUnderflow 0x00EE#16, rfl, by decide⟩

theorem witness_RetReturnsAfterTheCall :
    (running.setSp 1).sp.val ≠ 0 ∧ (running.setSp 15).sp.val ≠ 0 ∧ running.sp.val = 0 := by decide

theorem witness_CallPushesItsOwnAddress :
    running.sp.val ≠ 15 ∧ (running.setSp 14).sp.val ≠ 15 ∧ (running.setSp 15).sp.val = 15 := by decide

theorem witness_CallThenRetResumesAfterTheCall : (running.setSp 14).sp.val ≠ 15 := by decide

theorem witness_SubOfFiveAndTenBorrows :
    (14 : Idx) ≠ 15 ∧ ((running.setReg 14 5).setReg 15 0xA).reg 14 = 0x05#8 ∧
    ((running.setReg 14 5).setReg 15 0xA).reg 15 = 0x0A#8 := by decide

/-- A `SUB_FLAG` that is not the textbook one. -/
theorem witness_EveryFlagFunctionIsAnArgument :
    (fun a b : Byte => if a.toNat > b.toNat then 0x80#8 else 0#8) 0x05#8 0x0A#8 = 0#8 := by decide

theorem witness_LdFPointsAtTheDigit :
    (running.setReg 5 0xFF).cfg.implDocOps = true ∧
    (running.setReg 5 0xFF).cfg.fontBase.toNat +
      (running.setReg 5 0xFF).cfg.fontStride * (((running.setReg 5 0xFF).reg 5).toNat % 16) < 65536 := by decide

theorem witness_LdBStoresDecimalDigits :
    (running.setI 0xFFD).cfg.implDocOps = true ∧ (running.setI 0xFFD).mem.wf = true ∧
    (running.setI 0xFFD).i.toNat + 2 ≤ 0xFFF ∧ (running.setI 0xFFE).cfg.implDocOps = true ∧
    (running.setI 0xFFE).mem.wf = true ∧ (running.setI 0xFFE).i.toNat + 2 > 0xFFF := by decide

theorem witness_StoreRegsCopiesV0ToVx :
    (running.setI 0xFF0).mem.wf = true ∧ (running.setI 0xFF0).i.toNat + (15 : Idx).val ≤ 0xFFF ∧
    (running.setI 0xFF1).mem.wf = true ∧ (running.setI 0xFF1).i.toNat + (15 : Idx).val > 0xFFF := by decide

theorem witness_LoadRegsCopiesToV0ToVx :
    (running.setI 0xFFF).i.toNat + (0 : Idx).val ≤ 0xFFF ∧ (running.setI 0x1000).i.toNat + (0 : Idx).val > 0xFFF := by
  decide

theorem witness_MemoryReadsBackWhatWasWritten : running.mem.wf = true ∧ 0xFFF ≤ 0xFFF ∧ 0x1000 > 0xFFF := by decide

/-- A machine whose next draw reads the last byte of memory, a sprite with its leftmost bit on. -/
def drawing : State := bytesAt 0xFFF [0x80] (small.setI 0xFFF)

theorem witness_DrwXorsTheSpriteWithWraparound :
    (1 : Fin 16) ≠ 0 ∧ drawing.cfg.Valid ∧ drawing.disp.Shaped drawing.cfg.dispW drawing.cfg.dispH ∧
    drawing.i.toNat + (1 : Fin 16).val - 1 ≤ 0xFFF := by decide

/-- The clause of a draw that collides: the sprite bit lands on a pixel that is on. -/
theorem witness_DrwXorsTheSpriteWithWraparound_collides :
    0 < (pixelOn 0 0 drawing).cfg.dispH ∧ 0 < (pixelOn 0 0 drawing).cfg.dispW ∧
    1 ≤ (pixelOn 0 0 drawing).spriteHits 0 1 1 0 0 ∧ (pixelOn 0 0 drawing).disp.get 0 0 = true := by decide

/-- The clause of a draw that does not collide. -/
theorem witness_DrwXorsTheSpriteWithWraparound_clear :
    ∀ r, r < drawing.cfg.dispH → ∀ c, c < drawing.cfg.dispW →
      drawing.spriteHits 0 1 1 r c = 0 ∨ (drawing.disp.get r c = false ∧ drawing.spriteHits 0 1 1 r c = 1) := by decide

theorem witness_DrawingTwiceRestoresTheDisplay :
    (1 : Fin 16) ≠ 0 ∧ (0 : Idx) ≠ 15 ∧ (1 : Idx) ≠ 15 ∧ drawing.cfg.Valid ∧
    drawing.disp.Shaped drawing.cfg.dispW drawing.cfg.dispH ∧ drawing.i.toNat + (1 : Fin 16).val - 1 ≤ 0xFFF ∧
    8 ≤ drawing.cfg.dispW ∧ (1 : Fin 16).val ≤ drawing.cfg.dispH ∧ drawing.cfg.drawClearsVf = true ∧
    drawing.mem.read (drawing.i.toNat + 0) ≠ 0#8 := by decide

/-- The clause of a draw on a display that is off. -/
theorem witness_DrawingTwiceRestoresTheDisplay_off : ∀ r c, drawing.disp.get r c = false := by
  intro r c
  have h : drawing.disp = [[false, false, false, false, false, false, false, false]] := by decide
  rw [h]
  match r, c with
  | 0, 0 | 0, 1 | 0, 2 | 0, 3 | 0, 4 | 0, 5 | 0, 6 | 0, 7 => rfl
  | 0, c + 8 => rfl
  | r + 1, c => rfl

theorem witness_KeySkipsTestTheKeyLevel :
    running.cfg.implDocOps = true ∧ ((running.setReg 0 15).reg 0).toNat = (15 : Fin 16).val ∧
    ((running.setReg 0 16).reg 0).toNat > 0xF := by decide

theorem witness_KeyWaitTakesTheLowestKey :
    running.cfg.implDocOps = true ∧ (running.setKey 15 true).keyAt 15 = true ∧
    (∀ j : Fin 16, j.val < (15 : Fin 16).val → (running.setKey 15 true).keyAt j = false) ∧
    (∀ k, running.keyAt k = false) := by decide

theorem witness_OnlyTabledInstructionsWriteRegisters :
    (∃ t, exec (.ldRegsMem 3) running = .next t) ∧ mayWriteReg (.ldRegsMem 3) 4 = false := ⟨⟨_, rfl⟩, by decide⟩

theorem witness_OnlyTwoInstructionsStoreToMemory :
    (∃ t, exec (.ldB 0) running = .next t) ∧ running.mem.wf = true ∧
    ((Instr.ldB 0 = .ldB 0 ∧ (3 < running.i.toNat ∨ running.i.toNat + 2 < 3)) ∨
      (Instr.ldB 0 = .ldMemRegs 0 ∧ (3 < running.i.toNat ∨ running.i.toNat + (0 : Idx).val < 3))) ∧
    (∃ t, exec (.ldRegsMem 0) running = .next t) ∧
    (∀ x, Instr.ldRegsMem 0 ≠ .ldB x ∧ Instr.ldRegsMem 0 ≠ .ldMemRegs x) :=
  ⟨⟨_, rfl⟩, by decide, by decide, ⟨_, rfl⟩, by decide⟩

theorem witness_SpecialStateHasOnlyItsOwnWriters : ∃ t, exec (.addImm 3 1) running = .next t := ⟨_, rfl⟩

theorem running_scr_eq_disp : running.scr = running.disp := by decide

/-- The invariant holds of a machine other than the one at reset. -/
theorem witness_EveryEventKeepsTheInvariant : running.Inv where
  cfgValid := by decide
  memWf := by decide
  dispShaped := by decide
  scrEqDisp := running_scr_eq_disp
  pcBound := by decide
  stackBound := by decide
  stackZero := by decide
  faultCode := by decide
  faultPc := by decide

theorem witness_EveryCycleKeepsTheInvariant : running.Inv ∧ ∃ t, step running = .next t :=
  ⟨witness_EveryEventKeepsTheInvariant, _, rfl⟩

theorem witness_CreationMeetsTheInvariant : ({ defaultConfig with dispW := 1, dispH := 1 } : Config).Valid := by decide

theorem witness_LoadCopiesTheTruncatedImage :
    running.mem.wf = true ∧ 0xDFF < (List.replicate 0xE01 0xAA#8).length ∧ 0xDFF < 0xE00 ∧
    (0x1FF < 0x200 ∨ 0x200 + (List.replicate 0xE01 0xAA#8).length ≤ 0x1FF ∨ 0x1000 ≤ 0x1FF) := by
  refine ⟨by decide, ?_, by decide, by decide⟩
  rw [List.length_replicate]
  decide

theorem witness_DisplayReadReturnsTheVisibleBuffer : running.Inv := witness_EveryEventKeepsTheInvariant

theorem witness_AFaultIsFinal : ¬ halted.Running ∧ ∃ t, runEvents [.cycle, .keySet 3 true] halted = .next t :=
  ⟨by decide, _, rfl⟩

end Sys2Proof.Tests
end

section
/-! PROOFS. The no-op handler (40_engine.md R97) and DisplayRead (R103). -/

namespace Sys2Proof.Machine

/-! ### The no-op handler -/

/-- The state the no-op handler answers with, written out. -/
theorem noOp_eq_pc_add_two (s : State) : noOp s = .next { s with pc := s.pc + 2#16 } := by
  rw [noOp_eq, State.applyPc_eq, PcAction.target_next]

theorem exec_nop (w : Word) (s : State) : exec (.nop w) s = noOp s := rfl

theorem exec_nopDxy0 (x y : Idx) (s : State) : exec (.nopDxy0 x y) s = noOp s := rfl

/-! The five documented operations on a machine without them: each is guarded by `IMPL_DOC_OPS` and falls through to the
no-op handler. -/

theorem exec_skp_of_not_implDocOps {s : State} (h : s.cfg.implDocOps = false) (x : Idx) :
    exec (.skp x) s = noOp s :=
  if_neg (Bool.eq_false_iff.1 h)

theorem exec_sknp_of_not_implDocOps {s : State} (h : s.cfg.implDocOps = false) (x : Idx) :
    exec (.sknp x) s = noOp s :=
  if_neg (Bool.eq_false_iff.1 h)

theorem exec_ldK_of_not_implDocOps {s : State} (h : s.cfg.implDocOps = false) (x : Idx) :
    exec (.ldK x) s = noOp s :=
  if_neg (Bool.eq_false_iff.1 h)

theorem exec_ldF_of_not_implDocOps {s : State} (h : s.cfg.implDocOps = false) (x : Idx) :
    exec (.ldF x) s = noOp s :=
  if_neg (Bool.eq_false_iff.1 h)

theorem exec_ldB_of_not_implDocOps {s : State} (h : s.cfg.implDocOps = false) (x : Idx) :
    exec (.ldB x) s = noOp s :=
  if_neg (Bool.eq_false_iff.1 h)

/-- Settles O5: every instruction named runs the no-op handler, whose whole effect is `noOp_eq_pc_add_two`. -/
theorem noOpHandlerWritesNothing : Obligations.NoOpHandlerWritesNothing := by
  unfold Obligations.NoOpHandlerWritesNothing
  simp only [← noOp_eq_pc_add_two]
  exact ⟨exec_nop, exec_nopDxy0, fun x _ h =>
    ⟨exec_skp_of_not_implDocOps h x, exec_sknp_of_not_implDocOps h x, exec_ldK_of_not_implDocOps h x,
      exec_ldF_of_not_implDocOps h x, exec_ldB_of_not_implDocOps h x⟩⟩

/-! ### DisplayRead -/

@[simp] theorem displayRead_eq_disp (s : State) : displayRead s = s.disp := rfl

/-- What DisplayRead returns does not depend on the scratch buffer. -/
theorem displayRead_withScr (s : State) (p : Plane) : displayRead { s with scr := p } = displayRead s := by
  rw [displayRead_eq_disp, displayRead_eq_disp]

@[simp] theorem Event.apply_displayRead (s : State) : Event.displayRead.apply s = .next s := rfl

/-- What DisplayRead returns has the dimensions of the machine: the invariant's clause on `DISP`. -/
theorem State.Inv.displayRead_shaped {s : State} (h : s.Inv) : (displayRead s).Shaped s.cfg.dispW s.cfg.dispH := by
  rw [displayRead_eq_disp]
  exact h.dispShaped

/-- Settles O53: the value is `DISP` by definition, and its dimensions come from the invariant. -/
theorem displayReadReturnsTheVisibleBuffer : Obligations.DisplayReadReturnsTheVisibleBuffer := fun s =>
  ⟨displayRead_eq_disp s, displayRead_withScr s, State.Inv.displayRead_shaped, Event.apply_displayRead s⟩

end Sys2Proof.Machine
end

section
/-! PROOFS. The skips on a comparison (41_control_flow.md R113 to R116) and `Bnnn` (R117). -/

namespace Sys2Proof.Machine

/-! ### The skips on a comparison -/

/-- A handler that only skips on a condition, written out: `PC + 4` or `PC + 2`, and nothing else changes. -/
theorem complete_skipIf (c : Bool) (s : State) :
    complete (skipIf c) s = .next { s with pc := if c then s.pc + 4#16 else s.pc + 2#16 } := by
  rw [complete_eq, State.applyPc_eq, target_skipIf]

/-- The skip on equal operands: the Boolean test is the equality. -/
theorem complete_skipIf_beq (a b : Byte) (s : State) :
    complete (skipIf (a == b)) s = .next { s with pc := if a = b then s.pc + 4#16 else s.pc + 2#16 } := by
  simp only [complete_skipIf, beq_iff_eq]

/-- The skip on different operands, with the test turned round to the equality. -/
theorem complete_skipIf_bne (a b : Byte) (s : State) :
    complete (skipIf (a != b)) s = .next { s with pc := if a = b then s.pc + 2#16 else s.pc + 4#16 } := by
  simp only [complete_skipIf, bne_iff_ne, ne_eq, ite_not]

theorem exec_seImm (x : Idx) (kk : Byte) (s : State) :
    exec (.seImm x kk) s = complete (skipIf (s.reg x == kk)) s := rfl

theorem exec_sneImm (x : Idx) (kk : Byte) (s : State) :
    exec (.sneImm x kk) s = complete (skipIf (s.reg x != kk)) s := rfl

theorem exec_seReg (x y : Idx) (s : State) :
    exec (.seReg x y) s = complete (skipIf (s.reg x == s.reg y)) s := rfl

theorem exec_sneReg (x y : Idx) (s : State) :
    exec (.sneReg x y) s = complete (skipIf (s.reg x != s.reg y)) s := rfl

/-- Settles O17: both instructions are a skip on a comparison of `Vx` with the immediate. -/
theorem skipsCompareWithTheImmediate : Obligations.SkipsCompareWithTheImmediate := by
  intro x kk s
  rw [exec_seImm, exec_sneImm]
  exact ⟨complete_skipIf_beq (s.reg x) kk s, complete_skipIf_bne (s.reg x) kk s⟩

/-- Settles O18: both instructions are a skip on a comparison of `Vx` with `Vy`. -/
theorem skipsCompareTwoRegisters : Obligations.SkipsCompareTwoRegisters := by
  intro x y s
  rw [exec_seReg, exec_sneReg]
  exact ⟨complete_skipIf_beq (s.reg x) (s.reg y) s, complete_skipIf_bne (s.reg x) (s.reg y) s⟩

/-! ### Bnnn -/

/-- A 12-bit offset and a byte add up without wrapping at 16 bits. -/
theorem toNat_zextAddr_add_zextByte (a : Addr) (b : Byte) :
    (zextAddr a + zextByte b).toNat = a.toNat + b.toNat := by
  have ha := a.isLt
  have hb := b.isLt
  rw [BitVec.toNat_add_of_lt (by rw [toNat_zextAddr, toNat_zextByte]; omega), toNat_zextAddr, toNat_zextByte]

theorem exec_ldIV0 (nnn : Addr) (s : State) :
    exec (.ldIV0 nnn) s = complete .next (s.setI (zextAddr nnn + zextByte (s.reg 0))) := rfl

/-- A state whose only changes are the index and `PC + 2` is what `IndexResult` names: it has the registers and the memory of
the state before. -/
theorem indexResult_setI (s : State) (a : Word) : IndexResult s ((s.setI a).applyPc .next) a :=
  ⟨rfl, fun r => by rw [State.reg_applyPc, State.reg_setI], fun k => by rw [State.applyPc_mem, State.setI_mem]⟩

/-- Settles O19: the index ends as the sum of the two operands, which does not wrap. -/
theorem bnnnWritesTheIndexNotThePc : Obligations.BnnnWritesTheIndexNotThePc := fun nnn s =>
  ⟨_, exec_ldIV0 nnn s, toNat_zextAddr_add_zextByte nnn (s.reg 0), indexResult_setI s _⟩

end Sys2Proof.Machine
end

section
/-! PROOFS. The register loads, the unflagged ALU operations (42_alu.md R131 to R137), and the one flag value the source
fixes (R141). -/

namespace Sys2Proof.Machine

/-! ### One register written -/

/-- A state whose only changes are one register and `PC + 2` is what `RegResult` names. -/
theorem regResult_setReg (s : State) (x : Idx) (b : Byte) : RegResult s ((s.setReg x b).applyPc .next) x b :=
  ⟨fun r => by rw [State.reg_applyPc, State.reg_setReg], rfl, rfl,
    fun a => by rw [State.applyPc_mem, State.setReg_mem]⟩

/-- An instruction that completes with one register written has the result `RegResult` names. -/
theorem regResult_of_exec_eq {i : Instr} {s : State} {x : Idx} {b : Byte}
    (h : exec i s = complete .next (s.setReg x b)) : ∃ t, exec i s = .next t ∧ RegResult s t x b :=
  ⟨_, h, regResult_setReg s x b⟩

theorem exec_ldImm (x : Idx) (kk : Byte) (s : State) : exec (.ldImm x kk) s = complete .next (s.setReg x kk) := rfl

theorem exec_addImm (x : Idx) (kk : Byte) (s : State) :
    exec (.addImm x kk) s = complete .next (s.setReg x (s.reg x + kk)) := rfl

theorem exec_ldReg (x y : Idx) (s : State) : exec (.ldReg x y) s = complete .next (s.setReg x (s.reg y)) := rfl

theorem exec_orReg (x y : Idx) (s : State) :
    exec (.orReg x y) s = complete .next (s.setReg x (s.reg x ||| s.reg y)) := rfl

theorem exec_andReg (x y : Idx) (s : State) :
    exec (.andReg x y) s = complete .next (s.setReg x (s.reg x &&& s.reg y)) := rfl

theorem exec_xorReg (x y : Idx) (s : State) :
    exec (.xorReg x y) s = complete .next (s.setReg x (s.reg x ^^^ s.reg y)) := rfl

/-- The sum of two bytes, as the statements write it: the sum of the numbers modulo 256. -/
theorem byte_add_eq_ofNat_mod (a b : Byte) : a + b = BitVec.ofNat 8 ((a.toNat + b.toNat) % 256) :=
  BitVec.eq_of_toNat_eq (by rw [BitVec.toNat_add, BitVec.toNat_ofNat, Nat.mod_mod])

/-- Settles O20: the instruction writes the immediate to `Vx` and completes. -/
theorem ldImmLoadsTheByte : Obligations.LdImmLoadsTheByte := fun x kk s =>
  regResult_of_exec_eq (exec_ldImm x kk s)

/-- Settles O21: the byte sum the instruction writes to `Vx` is the sum modulo 256. -/
theorem addImmAddsModulo256 : Obligations.AddImmAddsModulo256 := by
  intro x kk s
  rw [← byte_add_eq_ofNat_mod]
  exact regResult_of_exec_eq (exec_addImm x kk s)

/-- Settles O22: each of the four writes its value to `Vx` and completes. -/
theorem copyAndLogicWriteOnlyVx : Obligations.CopyAndLogicWriteOnlyVx := fun x y s =>
  ⟨regResult_of_exec_eq (exec_ldReg x y s), regResult_of_exec_eq (exec_orReg x y s),
    regResult_of_exec_eq (exec_andReg x y s), regResult_of_exec_eq (exec_xorReg x y s)⟩

/-! ### The flag value the source fixes -/

/-- R141, for every flag function: `subFlag` tests for this point before it asks the function. -/
theorem subFlag_five_ten (r : FlagFun (Byte × Byte)) : subFlag r 0x05#8 0x0A#8 = 0#8 := if_pos ⟨rfl, rfl⟩

/-- With a destination other than `VF`, the result stands in it in both write orders (R139). -/
theorem State.reg_writeResultAndFlag_dest (s : State) {x : Idx} (hx : x ≠ vf) (r f : Byte) :
    (s.writeResultAndFlag x r f).reg x = r := by
  simp only [State.reg_writeResultAndFlag, if_neg hx, if_true, ite_self]

/-- With a destination other than `VF`, the flag stands in `VF` in both write orders (R139). -/
theorem State.reg_writeResultAndFlag_vf (s : State) {x : Idx} (hx : x ≠ vf) (r f : Byte) :
    (s.writeResultAndFlag x r f).reg vf = f := by
  simp only [State.reg_writeResultAndFlag, if_neg hx.symm, if_true, ite_self]

theorem exec_subReg (x y : Idx) (s : State) :
    exec (.subReg x y) s = complete .next
      (s.writeResultAndFlag x (s.reg x - s.reg y) (subFlag s.cfg.subFlag (s.reg x) (s.reg y))) := rfl

/-- Settles O25: the flag is fixed for every flag function, and with `x` other than F the result and the flag stand in two
registers whichever is written last. -/
theorem subOfFiveAndTenBorrows : Obligations.SubOfFiveAndTenBorrows := by
  refine ⟨subFlag_five_ten, fun x y s hx h5 h10 => ⟨_, exec_subReg x y s, ?_, ?_⟩⟩
  · have hdiff : 0x05#8 - 0x0A#8 = 0xFB#8 := by decide
    rw [State.reg_applyPc, State.reg_writeResultAndFlag_dest s hx, h5, h10, hdiff]
  · rw [State.reg_applyPc, h5, h10, subFlag_five_ten]
    exact State.reg_writeResultAndFlag_vf s hx _ _

end Sys2Proof.Machine
end

section
/-! PROOFS. The load of the index register (43_index_memory.md R160). -/

namespace Sys2Proof.Machine

theorem exec_ldI (nnn : Addr) (s : State) : exec (.ldI nnn) s = complete .next (s.setI (zextAddr nnn)) := rfl

/-- An address operand, extended to a word, is an address of memory. -/
theorem toNat_zextAddr_le (a : Addr) : (zextAddr a).toNat ≤ 0x0FFF := by
  rw [toNat_zextAddr]
  exact Nat.le_of_lt_succ a.isLt

/-- Settles O29: the index ends as the extended operand, which keeps its value. -/
theorem ldILoadsTheAddress : Obligations.LdILoadsTheAddress := fun nnn s =>
  ⟨_, exec_ldI nnn s, toNat_zextAddr nnn, toNat_zextAddr_le nnn, indexResult_setI s _⟩

end Sys2Proof.Machine
end

section
/-! PROOFS. `00E0`, the clear of the display (44_display.md R183). -/

namespace Sys2Proof.Machine

theorem exec_cls (s : State) :
    exec .cls s = complete .next (s.setScr (Plane.blank s.cfg.dispW s.cfg.dispH)).publish := rfl

/-- A plane put in the scratch buffer and published is the value of both planes; with the program counter it is all that an
instruction which then completes changes (R182, R96). -/
theorem complete_next_publish_setScr (s : State) (p : Plane) :
    complete .next (s.setScr p).publish = .next { s with disp := p, scr := p, pc := s.pc + 2#16 } := by
  rw [complete_eq, State.applyPc_eq, State.publish_pc, State.setScr_pc, PcAction.target_next]
  rfl

/-- Settles O36: both planes end as the blank plane of the machine's dimensions, whatever they held before. -/
theorem clsTurnsEveryPixelOff : Obligations.ClsTurnsEveryPixelOff := fun s =>
  ⟨_, (exec_cls s).trans (complete_next_publish_setScr s _), Plane.get_blank _ _, Plane.shaped_blank _ _, rfl, rfl,
    fun _ => rfl, fun _ => rfl⟩

end Sys2Proof.Machine
end

section
/-! PROOFS. The timer instructions `Fx07`, `Fx15` and `Fx18` (45_keys_timers.md R203 to R205). -/

namespace Sys2Proof.Machine

theorem exec_ldVxDt (x : Idx) (s : State) : exec (.ldVxDt x) s = complete .next (s.setReg x s.dt) := rfl

theorem exec_ldDtVx (x : Idx) (s : State) : exec (.ldDtVx x) s = complete .next (s.setDt (s.reg x)) := rfl

theorem exec_ldStVx (x : Idx) (s : State) : exec (.ldStVx x) s = complete .next (s.setSt (s.reg x)) := rfl

/-- A completed write of the delay timer changes the timer and the program counter and no other field. -/
theorem complete_next_setDt (s : State) (b : Byte) :
    complete .next (s.setDt b) = .next { s with dt := b, pc := s.pc + 2#16 } := by
  rw [complete_eq, State.applyPc_eq, State.setDt_pc, PcAction.target_next]
  rfl

/-- A completed write of the sound timer changes the timer and the program counter and no other field. -/
theorem complete_next_setSt (s : State) (b : Byte) :
    complete .next (s.setSt b) = .next { s with st := b, pc := s.pc + 2#16 } := by
  rw [complete_eq, State.applyPc_eq, State.setSt_pc, PcAction.target_next]
  rfl

/-- Settles O41: `Fx07` completes with one register written, the other two with one timer written. -/
theorem timerInstructionsMoveOneByte : Obligations.TimerInstructionsMoveOneByte := fun x s =>
  ⟨regResult_of_exec_eq (exec_ldVxDt x s), (exec_ldDtVx x s).trans (complete_next_setDt s _),
    (exec_ldStVx x s).trans (complete_next_setSt s _)⟩

end Sys2Proof.Machine
end

section
/-! PROOFS. The encoding (30_encoding.md sections 1, 3 and 4): words and their nibbles, encoding after decoding, decoding
after encoding, and the words no row of the table matches. -/

namespace Sys2Proof

/-! ### Words and nibbles as numbers, where `omega` decides about them -/

theorem toNat_append {v w : Nat} (a : BitVec v) (b : BitVec w) :
    (a ++ b).toNat = a.toNat * 2 ^ w + b.toNat := by
  rw [BitVec.toNat_append, ← Nat.shiftLeft_add_eq_or_of_lt b.isLt, Nat.shiftLeft_eq]

theorem toNat_extractLsb' {v : Nat} (w : BitVec v) (k n : Nat) :
    (w.extractLsb' k n).toNat = w.toNat / 2 ^ k % 2 ^ n := by
  rw [BitVec.extractLsb'_toNat, Nat.shiftRight_eq_div_pow]

theorem Fields.toNat_join (f : Fields) :
    f.join.toNat = f.n0.toNat * 4096 + f.n1.toNat * 256 + f.n2.toNat * 16 + f.n3.toNat := by
  simp only [Fields.join, toNat_append]
  omega

/-- R72: the nibbles of a word make up the word again. -/
theorem Fields.join_split (w : Word) : (Fields.split w).join = w := by
  apply BitVec.eq_of_toNat_eq
  rw [Fields.toNat_join]
  simp only [Fields.split, toNat_extractLsb']
  omega

/-- R72: a word made up of nibbles has these nibbles. -/
theorem Fields.split_join (f : Fields) : Fields.split f.join = f := by
  obtain ⟨a, b, c, d⟩ := f
  simp only [Fields.split, Fields.mk.injEq, BitVec.toNat_eq, toNat_extractLsb', Fields.toNat_join]
  omega

theorem Fields.nnn_split (w : Word) : (Fields.split w).nnn = w.extractLsb' 0 12 := by
  simp only [Fields.split, Fields.nnn, BitVec.toNat_eq, toNat_extractLsb', toNat_append]
  omega

theorem Fields.kk_split (w : Word) : (Fields.split w).kk = w.extractLsb' 0 8 := by
  simp only [Fields.split, Fields.kk, BitVec.toNat_eq, toNat_extractLsb', toNat_append]
  omega

/-! ### The word of each format, from its fields -/

theorem packNnn_eq_join {f : Fields} {n0 : Nibble} {nnn : Addr} (h0 : f.n0 = n0) (h : f.nnn = nnn) :
    packNnn n0 nnn = f.join := by
  subst h0 h
  simp only [BitVec.toNat_eq, Fields.toNat_join, packNnn, Fields.nnn, toNat_append]
  omega

theorem packXkk_eq_join {f : Fields} {n0 : Nibble} {kk : Byte} (h0 : f.n0 = n0) (h : f.kk = kk) :
    packXkk n0 f.x kk = f.join := by
  subst h0 h
  simp only [BitVec.toNat_eq, Fields.toNat_join, packXkk, Fields.x, Fields.kk, toNat_append, nib,
    BitVec.toNat_ofFin, BitVec.val_toFin]
  omega

theorem packXyn_eq_join {f : Fields} {n0 n3 : Nibble} (h0 : f.n0 = n0) (h : f.n3 = n3) :
    packXyn n0 f.x f.y n3 = f.join := by
  subst h0 h
  rfl

/-! ### Rows of the table, nibble by nibble -/

theorem Fields.join_and_join (f g : Fields) :
    f.join &&& g.join = Fields.join ⟨f.n0 &&& g.n0, f.n1 &&& g.n1, f.n2 &&& g.n2, f.n3 &&& g.n3⟩ := by
  simp only [Fields.join]
  rw [← BitVec.and_append, ← BitVec.and_append, ← BitVec.and_append]

theorem Fields.join_inj {f g : Fields} : f.join = g.join ↔ f = g :=
  ⟨fun h => by rw [← Fields.split_join f, h, Fields.split_join], congrArg _⟩

/-- A word matches a row when each of its nibbles does. -/
theorem Pattern.matches_join (p : Pattern) (f : Fields) :
    p.matches f.join = true ↔
      f.n0 &&& (Fields.split p.mask).n0 = (Fields.split p.value).n0 ∧
      f.n1 &&& (Fields.split p.mask).n1 = (Fields.split p.value).n1 ∧
      f.n2 &&& (Fields.split p.mask).n2 = (Fields.split p.value).n2 ∧
      f.n3 &&& (Fields.split p.mask).n3 = (Fields.split p.value).n3 := by
  rw [Pattern.matches, beq_iff_eq, ← Fields.mk.injEq, ← Fields.join_inj, ← Fields.join_and_join, Fields.join_split]
  exact ⟨fun h => h.trans (Fields.join_split p.value).symm, fun h => h.trans (Fields.join_split p.value)⟩

theorem Nibble.and_F (n : Nibble) : n &&& 0xF#4 = n := BitVec.and_allOnes

theorem Fields.kk_eq_iff (f : Fields) (b : Byte) : f.kk = b ↔ f.n2 = b.extractLsb' 4 4 ∧ f.n3 = b.extractLsb' 0 4 := by
  simp only [BitVec.toNat_eq, Fields.kk, toNat_append, toNat_extractLsb']
  omega

theorem Fields.nnn_eq_iff (f : Fields) (a : Addr) :
    f.nnn = a ↔ f.n1 = a.extractLsb' 8 4 ∧ f.n2 = a.extractLsb' 4 4 ∧ f.n3 = a.extractLsb' 0 4 := by
  simp only [BitVec.toNat_eq, Fields.nnn, toNat_append, toNat_extractLsb']
  omega

/-! What is left of `unrecognised` in the families that have a no-op, once the first nibble is known: only the rows of the
family. -/

theorem unrecognised_family0 {f : Fields} (h : f.n0 = 0x0#4) :
    unrecognised f.join = true ↔ f.nnn ≠ 0x0E0#12 ∧ f.nnn ≠ 0x0EE#12 := by
  simp [unrecognised, opcodeRows, ← Bool.not_eq_true, Pattern.matches_join, Fields.split, Nibble.and_F, h,
    Fields.nnn_eq_iff]

theorem unrecognised_family5 {f : Fields} (h : f.n0 = 0x5#4) : unrecognised f.join = true ↔ f.n3 ≠ 0x0#4 := by
  simp [unrecognised, opcodeRows, ← Bool.not_eq_true, Pattern.matches_join, Fields.split, Nibble.and_F, h]

theorem unrecognised_family8 {f : Fields} (h : f.n0 = 0x8#4) :
    unrecognised f.join = true ↔ f.n3 ∉ [0x0#4, 0x1#4, 0x2#4, 0x3#4, 0x4#4, 0x5#4, 0x6#4, 0x7#4, 0xE#4] := by
  simp [unrecognised, opcodeRows, ← Bool.not_eq_true, Pattern.matches_join, Fields.split, Nibble.and_F, h]

theorem unrecognised_family9 {f : Fields} (h : f.n0 = 0x9#4) : unrecognised f.join = true ↔ f.n3 ≠ 0x0#4 := by
  simp [unrecognised, opcodeRows, ← Bool.not_eq_true, Pattern.matches_join, Fields.split, Nibble.and_F, h]

theorem unrecognised_familyE {f : Fields} (h : f.n0 = 0xE#4) :
    unrecognised f.join = true ↔ f.kk ∉ [0x9E#8, 0xA1#8] := by
  simp [unrecognised, opcodeRows, ← Bool.not_eq_true, Pattern.matches_join, Fields.split, Nibble.and_F, h,
    Fields.kk_eq_iff]

theorem unrecognised_familyF {f : Fields} (h : f.n0 = 0xF#4) :
    unrecognised f.join = true ↔
      f.kk ∉ [0x07#8, 0x0A#8, 0x15#8, 0x18#8, 0x1E#8, 0x29#8, 0x33#8, 0x55#8, 0x65#8] := by
  simp [unrecognised, opcodeRows, ← Bool.not_eq_true, Pattern.matches_join, Fields.split, Nibble.and_F, h,
    Fields.kk_eq_iff]

/-! ### Encoding after decoding -/

/-- `i` is well-formed and its word has the nibbles `f`. -/
def IsReading (f : Fields) (i : Instr) : Prop := wellFormed i = true ∧ encode i = f.join

theorem isReading_nop {f : Fields} (h : unrecognised f.join = true) : IsReading f (.nop f.join) := ⟨h, rfl⟩

theorem isReading_dispatch0 {f : Fields} (h0 : f.n0 = 0x0#4) : IsReading f (dispatch0 f) := by
  unfold dispatch0
  split_ifs with hcls hret
  · exact ⟨rfl, packNnn_eq_join h0 hcls⟩
  · exact ⟨rfl, packNnn_eq_join h0 hret⟩
  · exact isReading_nop ((unrecognised_family0 h0).2 ⟨hcls, hret⟩)

theorem isReading_dispatch8 {f : Fields} (h0 : f.n0 = 0x8#4) : IsReading f (dispatch8 f) := by
  unfold dispatch8
  split
  case h_10 => exact isReading_nop ((unrecognised_family8 h0).2 (by simp_all))
  all_goals exact ⟨rfl, packXyn_eq_join h0 ‹_›⟩

theorem isReading_dispatchE {f : Fields} (h0 : f.n0 = 0xE#4) : IsReading f (dispatchE f) := by
  unfold dispatchE
  split_ifs
  case neg => exact isReading_nop ((unrecognised_familyE h0).2 (by simp_all))
  all_goals exact ⟨rfl, packXkk_eq_join h0 ‹_›⟩

theorem isReading_dispatchF {f : Fields} (h0 : f.n0 = 0xF#4) : IsReading f (dispatchF f) := by
  unfold dispatchF
  split_ifs
  case neg => exact isReading_nop ((unrecognised_familyF h0).2 (by simp_all))
  all_goals exact ⟨rfl, packXkk_eq_join h0 ‹_›⟩

/-- A first nibble that is none of 0 to E is F. -/
theorem Nibble.eq_F_of_ne {n : Nibble} (h : ∀ k : Fin 15, n ≠ BitVec.ofNat 4 k.val) : n = 0xF#4 := by
  revert n
  decide

/-- Every handler is reached by the words of its own instruction. -/
theorem isReading_dispatch (f : Fields) : IsReading f (dispatch f) := by
  unfold dispatch
  split
  case h_1 h => exact isReading_dispatch0 h
  case h_2 h => exact ⟨rfl, packNnn_eq_join h rfl⟩
  case h_3 h => exact ⟨rfl, packNnn_eq_join h rfl⟩
  case h_4 h => exact ⟨rfl, packXkk_eq_join h rfl⟩
  case h_5 h => exact ⟨rfl, packXkk_eq_join h rfl⟩
  case h_6 h =>
    split_ifs with h3
    · exact ⟨rfl, packXyn_eq_join h h3⟩
    · exact isReading_nop ((unrecognised_family5 h).2 h3)
  case h_7 h => exact ⟨rfl, packXkk_eq_join h rfl⟩
  case h_8 h => exact ⟨rfl, packXkk_eq_join h rfl⟩
  case h_9 h => exact isReading_dispatch8 h
  case h_10 h =>
    split_ifs with h3
    · exact ⟨rfl, packXyn_eq_join h h3⟩
    · exact isReading_nop ((unrecognised_family9 h).2 h3)
  case h_11 h => exact ⟨rfl, packNnn_eq_join h rfl⟩
  case h_12 h => exact ⟨rfl, packNnn_eq_join h rfl⟩
  case h_13 h => exact ⟨rfl, packXkk_eq_join h rfl⟩
  case h_14 h =>
    split_ifs with h3
    · exact ⟨rfl, packXyn_eq_join h h3⟩
    · refine ⟨bne_iff_ne.2 fun hn => h3 ?_, packXyn_eq_join h rfl⟩
      exact BitVec.toFin_inj.1 hn
  case h_15 h => exact isReading_dispatchE h
  case h_16 => exact isReading_dispatchF (Nibble.eq_F_of_ne (fun k => by fin_cases k <;> assumption))

theorem isReading_decodeWord (w : Word) : IsReading (Fields.split w) (decodeWord w) := isReading_dispatch _

theorem wellFormed_decodeWord (w : Word) : wellFormed (decodeWord w) = true := (isReading_decodeWord w).1

theorem encode_decodeWord (w : Word) : encode (decodeWord w) = w := by
  rw [(isReading_decodeWord w).2, Fields.join_split]

/-! ### Decoding after encoding -/

@[simp] theorem Fields.n0_packNnn (n0 : Nibble) (nnn : Addr) : (Fields.split (packNnn n0 nnn)).n0 = n0 := by
  simp only [Fields.split, packNnn, BitVec.toNat_eq, toNat_extractLsb', toNat_append]
  omega

@[simp] theorem Fields.nnn_packNnn (n0 : Nibble) (nnn : Addr) : (Fields.split (packNnn n0 nnn)).nnn = nnn := by
  simp only [Fields.nnn_split, packNnn, BitVec.toNat_eq, toNat_extractLsb', toNat_append]
  omega

theorem Fields.split_packXyn (n0 : Nibble) (x y : Idx) (n3 : Nibble) :
    Fields.split (packXyn n0 x y n3) = ⟨n0, nib x, nib y, n3⟩ :=
  Fields.split_join ⟨n0, nib x, nib y, n3⟩

@[simp] theorem Fields.n0_packXyn (n0 : Nibble) (x y : Idx) (n3 : Nibble) :
    (Fields.split (packXyn n0 x y n3)).n0 = n0 := by
  rw [Fields.split_packXyn]

@[simp] theorem Fields.x_packXyn (n0 : Nibble) (x y : Idx) (n3 : Nibble) :
    (Fields.split (packXyn n0 x y n3)).x = x := by
  rw [Fields.split_packXyn]
  rfl

@[simp] theorem Fields.y_packXyn (n0 : Nibble) (x y : Idx) (n3 : Nibble) :
    (Fields.split (packXyn n0 x y n3)).y = y := by
  rw [Fields.split_packXyn]
  rfl

@[simp] theorem Fields.n3_packXyn (n0 : Nibble) (x y : Idx) (n3 : Nibble) :
    (Fields.split (packXyn n0 x y n3)).n3 = n3 := by
  rw [Fields.split_packXyn]

@[simp] theorem Fields.n_packXyn (n0 : Nibble) (x y : Idx) (n : Fin 16) :
    (Fields.split (packXyn n0 x y (nib n))).n = n := by
  rw [Fields.split_packXyn]
  rfl

theorem Fields.split_packXkk (n0 : Nibble) (x : Idx) (kk : Byte) :
    Fields.split (packXkk n0 x kk) = ⟨n0, nib x, kk.extractLsb' 4 4, kk.extractLsb' 0 4⟩ := by
  rw [← Fields.split_join ⟨n0, nib x, kk.extractLsb' 4 4, kk.extractLsb' 0 4⟩,
    ← packXkk_eq_join (kk := kk) rfl ((Fields.kk_eq_iff _ kk).2 ⟨rfl, rfl⟩)]
  rfl

@[simp] theorem Fields.n0_packXkk (n0 : Nibble) (x : Idx) (kk : Byte) : (Fields.split (packXkk n0 x kk)).n0 = n0 := by
  rw [Fields.split_packXkk]

@[simp] theorem Fields.x_packXkk (n0 : Nibble) (x : Idx) (kk : Byte) : (Fields.split (packXkk n0 x kk)).x = x := by
  rw [Fields.split_packXkk]
  rfl

@[simp] theorem Fields.kk_packXkk (n0 : Nibble) (x : Idx) (kk : Byte) : (Fields.split (packXkk n0 x kk)).kk = kk := by
  rw [Fields.split_packXkk]
  exact (Fields.kk_eq_iff _ kk).2 ⟨rfl, rfl⟩

/-- The families without a no-op have no unrecognised word. -/
theorem not_unrecognised_of_family {f : Fields}
    (h : f.n0 ∈ [0x1#4, 0x2#4, 0x3#4, 0x4#4, 0x6#4, 0x7#4, 0xA#4, 0xB#4, 0xC#4, 0xD#4]) : unrecognised f.join = false := by
  simp only [List.mem_cons, List.not_mem_nil, or_false] at h
  rcases h with h | h | h | h | h | h | h | h | h | h <;>
    simp [unrecognised, opcodeRows, Pattern.matches_join, Fields.split, Nibble.and_F, h]

/-- R77: the handler of a word that no row matches is the no-op. -/
theorem dispatch_of_unrecognised {f : Fields} (h : unrecognised f.join = true) : dispatch f = .nop f.join := by
  unfold dispatch
  split
  case h_1 h0 =>
    obtain ⟨hcls, hret⟩ := (unrecognised_family0 h0).1 h
    rw [dispatch0, if_neg hcls, if_neg hret]
  case h_6 h0 => rw [if_neg ((unrecognised_family5 h0).1 h)]
  case h_9 h0 =>
    have h3 := (unrecognised_family8 h0).1 h
    unfold dispatch8
    split <;> simp_all
  case h_10 h0 => rw [if_neg ((unrecognised_family9 h0).1 h)]
  case h_15 h0 =>
    have hk := (unrecognised_familyE h0).1 h
    simp_all [dispatchE]
  case h_16 =>
    have h0 := Nibble.eq_F_of_ne (n := f.n0) (fun k => by fin_cases k <;> assumption)
    have hk := (unrecognised_familyF h0).1 h
    simp_all [dispatchF]
  all_goals
    rw [not_unrecognised_of_family (by simp [*])] at h
    contradiction

theorem decodeWord_of_unrecognised {w : Word} (h : unrecognised w = true) : decodeWord w = .nop w := by
  rw [← Fields.join_split w] at h
  rw [decodeWord, dispatch_of_unrecognised h, Fields.join_split]

theorem unrecognised_iff (w : Word) : unrecognised w = true ↔ ∀ p ∈ opcodeRows, w &&& p.mask ≠ p.value := by
  simp [unrecognised, Pattern.matches]

/-- Settles O1: by the format of the instruction's word, whose fields are read back; the two constructors that
well-formedness restricts need their check. -/
theorem decodeOfEncodeIsTheInstruction : Obligations.DecodeOfEncodeIsTheInstruction := by
  intro i hi
  cases i with
  | cls => decide
  | ret => decide
  | nop w => exact decodeWord_of_unrecognised hi
  | drw x y n =>
    have hn : nib n ≠ 0x0#4 := fun h => bne_iff_ne.1 hi (congrArg BitVec.toFin h)
    simp [encode, decodeWord, dispatch, hn]
  | jp _ | call _ | ldI _ | ldIV0 _ =>
    simp only [encode, decodeWord, dispatch, Fields.n0_packNnn, Fields.nnn_packNnn]
  | seImm _ _ | sneImm _ _ | ldImm _ _ | addImm _ _ | rnd _ _ =>
    simp only [encode, decodeWord, dispatch, Fields.n0_packXkk, Fields.x_packXkk, Fields.kk_packXkk]
  | seReg _ _ | sneReg _ _ | nopDxy0 _ _ =>
    simp only [encode, decodeWord, dispatch, Fields.n0_packXyn, Fields.n3_packXyn, Fields.x_packXyn, Fields.y_packXyn,
      if_true]
  | ldReg _ _ | orReg _ _ | andReg _ _ | xorReg _ _ | addReg _ _ | subReg _ _ | shr _ _ | subn _ _ | shl _ _ =>
    simp only [encode, decodeWord, dispatch, Fields.n0_packXyn, dispatch8, Fields.n3_packXyn, Fields.x_packXyn,
      Fields.y_packXyn]
  | skp _ | sknp _ => simp [encode, decodeWord, dispatch, dispatchE]
  | ldVxDt _ | ldK _ | ldDtVx _ | ldStVx _ | addI _ | ldF _ | ldB _ | ldMemRegs _ | ldRegsMem _ =>
    simp [encode, decodeWord, dispatch, dispatchF]

/-- Settles O2: the fields are numbers of nibbles, and decoding is `isReading_decodeWord`. -/
theorem encodeOfDecodeIsTheWord : Obligations.EncodeOfDecodeIsTheWord := fun w =>
  ⟨Fields.join_split w, rfl, rfl, rfl, rfl, Fields.nnn_split w, Fields.kk_split w, toNat_extractLsb' w 8 4,
    toNat_extractLsb' w 4 4, (toNat_extractLsb' w 0 4).trans (by rw [pow_zero, Nat.div_one]; rfl), wellFormed_decodeWord w,
    encode_decodeWord w⟩

/-- Settles O3: the decoder runs on each of the twenty words. -/
theorem sampleWordsDecodeAsTabled : Obligations.SampleWordsDecodeAsTabled := by
  unfold Obligations.SampleWordsDecodeAsTabled
  decide

/-- R189: a word `Dxy0` matches its row of the table. -/
theorem decodeWord_Dxy0 {w : Word} (h : w &&& 0xF00F#16 = 0xD000#16) :
    decodeWord w = .nopDxy0 (Fields.split w).x (Fields.split w).y := by
  have hrow := (Pattern.matches_join ⟨0xF00F#16, 0xD000#16⟩ (Fields.split w)).1
    (by rw [Fields.join_split]; exact beq_iff_eq.2 h)
  obtain ⟨h0, -, -, h3⟩ := hrow
  have h0 : (Fields.split w).n0 = 0xD#4 := (Nibble.and_F _).symm.trans h0
  have h3 : (Fields.split w).n3 = 0x0#4 := (Nibble.and_F _).symm.trans h3
  simp [decodeWord, dispatch, h0, h3]

/-- Settles O4: both kinds of words decode to an instruction whose handler is the no-op. -/
theorem unrecognisedWordsAdvanceByTwo : Obligations.UnrecognisedWordsAdvanceByTwo := by
  refine ⟨fun w hw => ?_, fun w hw s => ?_⟩
  · have hdec := decodeWord_of_unrecognised ((unrecognised_iff w).2 hw)
    refine ⟨hdec, fun s => ?_⟩
    rw [hdec, Machine.exec_nop, Machine.noOp_eq_pc_add_two]
  · rw [decodeWord_Dxy0 hw, Machine.exec_nopDxy0, Machine.noOp_eq_pc_add_two]

end Sys2Proof
end

section
/-! PROOFS. What one instruction does, said once (60_exceptions.md R221, R222; 40_engine.md R95, R96): it raises the fault of
the table, or it writes its part of the state and applies its program-counter action. Every frame is read off from this. -/

namespace Sys2Proof.Machine

/-! ### The registers after the shared writes, as functions of the registers and the parameters alone -/

/-- The registers after `WriteResultAndFlag` (42_alu.md R139). -/
def State.flaggedRegs (s : State) (x : Idx) (r f : Byte) : Vector Byte 16 :=
  if s.cfg.aluFlagWriteLast then (s.v.set x r).set vf f else (s.v.set vf f).set x r

theorem State.writeResultAndFlag_eq_flaggedRegs (s : State) (x : Idx) (r f : Byte) :
    s.writeResultAndFlag x r f = { s with v := s.flaggedRegs x r f } := by
  unfold State.writeResultAndFlag State.flaggedRegs
  split <;> rfl

/-- The registers at the end of a draw (44_display.md R184, R185). -/
def State.collisionRegs (s : State) (col : Bool) : Vector Byte 16 :=
  if col then s.v.set vf 1#8 else if s.cfg.drawClearsVf then s.v.set vf 0#8 else s.v

theorem State.writeCollision_eq_collisionRegs (s : State) (col : Bool) :
    s.writeCollision col = { s with v := s.collisionRegs col } := by
  unfold State.writeCollision State.collisionRegs
  split
  · rfl
  · split <;> rfl

/-- The register file with the bytes loaded from register `k` on (43_index_memory.md R167). -/
def loadedRegs (v : Vector Byte 16) : List Byte → Nat → Vector Byte 16
  | [], _ => v
  | b :: bs, k => loadedRegs (v.setIfInBounds k b) bs (k + 1)

theorem State.loadRegs_eq_loadedRegs (s : State) (bs : List Byte) (k : Nat) :
    s.loadRegs bs k = { s with v := loadedRegs s.v bs k } := by
  induction bs generalizing s k with
  | nil => rfl
  | cons b bs ih => exact ih _ (k + 1)

/-! ### The writes and the program-counter action of an instruction that does not fault -/

/-- The raster after the `n` rows of the sprite at `I`, from the display as it is (44_display.md R184). -/
def State.drawn (s : State) (x y : Idx) (n : Nat) : Raster :=
  plotSprite (s.drawAt x y) 0 (s.mem.readBlock s.i.toNat n) { plane := s.disp, col := false }

/-- The state after the writes of an instruction that does not fault, before the program-counter action. Each arm names the
fields it writes, so that every other field is the same by definition. -/
def State.writes (s : State) : Instr → State
  | .cls => (s.setScr (Plane.blank s.cfg.dispW s.cfg.dispH)).publish
  | .ret => s.setSp (s.sp - 1)
  | .call _ => (s.setSp (s.sp + 1)).setStack (s.sp + 1) s.pc
  | .ldImm x kk => s.setReg x kk
  | .addImm x kk => s.setReg x (s.reg x + kk)
  | .ldReg x y => s.setReg x (s.reg y)
  | .orReg x y => s.setReg x (s.reg x ||| s.reg y)
  | .andReg x y => s.setReg x (s.reg x &&& s.reg y)
  | .xorReg x y => s.setReg x (s.reg x ^^^ s.reg y)
  | .addReg x y =>
    { s with v := s.flaggedRegs x (s.reg x + s.reg y) (addFlag s.cfg.addFlag (s.reg x) (s.reg y)) }
  | .subReg x y =>
    { s with v := s.flaggedRegs x (s.reg x - s.reg y) (subFlag s.cfg.subFlag (s.reg x) (s.reg y)) }
  | .shr x _ => { s with v := s.flaggedRegs x (s.reg x >>> 1) (shrFlag s.cfg.shrFlag (s.reg x)) }
  | .subn x y =>
    { s with v := s.flaggedRegs x (s.reg y - s.reg x) (subnFlag s.cfg.subnFlag (s.reg y) (s.reg x)) }
  | .shl x _ => { s with v := s.flaggedRegs x (s.reg x <<< 1) (shlFlag s.cfg.shlFlag (s.reg x)) }
  | .ldI nnn => s.setI (zextAddr nnn)
  | .ldIV0 nnn => s.setI (zextAddr nnn + zextByte (s.reg 0))
  | .rnd x kk => s.consumeRnd.setReg x (s.rndByte &&& kk)
  | .drw x y n =>
    { s with v := s.collisionRegs (s.drawn x y n.val).col,
             scr := (s.drawn x y n.val).plane, disp := (s.drawn x y n.val).plane }
  | .ldVxDt x => s.setReg x s.dt
  | .ldK x => { s with v := if s.cfg.implDocOps then s.lowestKey.elim s.v (fun k => s.v.set x (byteOfIdx k)) else s.v }
  | .ldDtVx x => s.setDt (s.reg x)
  | .ldStVx x => s.setSt (s.reg x)
  | .addI x => s.setI (s.i + zextByte (s.reg x))
  | .ldF x => { s with i := if s.cfg.implDocOps then s.glyphAddr (lowNibble (s.reg x)) else s.i }
  | .ldB x =>
    { s with mem := if s.cfg.implDocOps then s.mem.writeBlock s.i.toNat (decimalDigits (s.reg x)) else s.mem }
  | .ldMemRegs x => { s with mem := s.mem.writeBlock s.i.toNat (s.regsUpTo x) }
  | .ldRegsMem x => { s with v := loadedRegs s.v (s.mem.readBlock s.i.toNat (x.val + 1)) 0 }
  | .jp _ | .seImm _ _ | .sneImm _ _ | .seReg _ _ | .sneReg _ _ | .nopDxy0 _ _ | .skp _ | .sknp _ | .nop _ => s

/-- The program-counter action of an instruction that does not fault. -/
def State.action (s : State) : Instr → PcAction
  | .ret => .jump (s.stackAt s.sp + 2#16)
  | .jp nnn | .call nnn => .jump (s.jumpTarget nnn)
  | .seImm x kk => skipIf (s.reg x == kk)
  | .sneImm x kk => skipIf (s.reg x != kk)
  | .seReg x y => skipIf (s.reg x == s.reg y)
  | .sneReg x y => skipIf (s.reg x != s.reg y)
  | .skp x => if s.cfg.implDocOps then skipIf (s.keyAt (lowNibble (s.reg x))) else .next
  | .sknp x => if s.cfg.implDocOps then skipIf (!s.keyAt (lowNibble (s.reg x))) else .next
  | .ldK _ => if s.cfg.implDocOps then s.lowestKey.elim (.jump s.pc) (fun _ => .next) else .next
  | _ => .next

/-- The state after an instruction: the fault of the table, or the writes and the program-counter action. -/
def State.after (s : State) (i : Instr) : State :=
  match faultCondition i s with
  | some k => s.withFault k (encode i)
  | none => (s.writes i).applyPc (s.action i)

theorem State.after_of_fault {s : State} {i : Instr} {k : FaultKind} (h : faultCondition i s = some k) :
    s.after i = s.withFault k (encode i) := by
  rw [State.after, h]

theorem State.after_of_no_fault {s : State} {i : Instr} (h : faultCondition i s = none) :
    s.after i = (s.writes i).applyPc (s.action i) := by
  rw [State.after, h]

/-! ### `exec` answers that state: the handlers with branches, one by one -/

theorem exec_ret (s : State) : exec .ret s = .next (s.after .ret) := by
  change execRet s = _
  by_cases h : s.sp = 0
  · have hf : faultCondition .ret s = some .stackUnderflow := if_pos (congrArg Fin.val h)
    rw [execRet, if_pos h, State.after_of_fault hf, raiseFault_eq]
  · have hf : faultCondition .ret s = none := if_neg (fun hv => h (Fin.ext hv))
    rw [execRet, if_neg h, State.after_of_no_fault hf]
    rfl

theorem exec_call (nnn : Addr) (s : State) : exec (.call nnn) s = .next (s.after (.call nnn)) := by
  change execCall nnn s = _
  by_cases h : s.sp = 15
  · have hf : faultCondition (.call nnn) s = some .stackOverflow := if_pos (congrArg Fin.val h)
    rw [execCall, if_pos h, State.after_of_fault hf, raiseFault_eq]
  · have hf : faultCondition (.call nnn) s = none := if_neg (fun hv => h (Fin.ext hv))
    rw [execCall, if_neg h, State.after_of_no_fault hf]
    rfl

theorem exec_drw (x y : Idx) (n : Fin 16) (s : State) : exec (.drw x y n) s = .next (s.after (.drw x y n)) := by
  change execDrw x y n s = _
  rcases readBlock_cases s.i.toNat n.val s with ⟨hle, hread⟩ | ⟨hgt, hread⟩
  · have hf : faultCondition (.drw x y n) s = none := if_neg (by omega)
    rw [execDrw, hread, State.after_of_no_fault hf]
    exact congrArg (complete .next) (State.writeCollision_eq_collisionRegs _ (s.drawn x y n.val).col)
  · have hf : faultCondition (.drw x y n) s = some .readOutOfRange := if_pos hgt
    rw [execDrw, hread, State.after_of_fault hf]
    rfl

/-- The two skips on a key: inert without the documented operations, else the fault or the skip (45_keys_timers.md R200,
R201). -/
theorem keySkip_eq_after {i : Instr} {x : Idx} {act : PcAction} {s : State}
    (hf : faultCondition i s = if s.cfg.implDocOps ∧ (s.reg x).toNat > 0xF then some .keyIndexOutOfRange else none)
    (hw : s.writes i = s) (ha : s.action i = if s.cfg.implDocOps then act else .next) :
    (if s.cfg.implDocOps then
        if (s.reg x).toNat > 0xF then raiseFault .keyIndexOutOfRange (encode i) s else complete act s
      else noOp s) = .next (s.after i) := by
  by_cases hdoc : s.cfg.implDocOps = true
  · by_cases hkey : (s.reg x).toNat > 0xF
    · rw [if_pos ⟨hdoc, hkey⟩] at hf
      rw [if_pos hdoc, if_pos hkey, State.after_of_fault hf, raiseFault_eq]
    · rw [if_neg (fun h => hkey h.2)] at hf
      rw [if_pos hdoc, if_neg hkey, State.after_of_no_fault hf, hw, ha, if_pos hdoc, complete_eq]
  · rw [if_neg (fun h => hdoc h.1)] at hf
    rw [if_neg hdoc, State.after_of_no_fault hf, hw, ha, if_neg hdoc, noOp_eq]

theorem exec_skp (x : Idx) (s : State) : exec (.skp x) s = .next (s.after (.skp x)) :=
  keySkip_eq_after rfl rfl rfl

theorem exec_sknp (x : Idx) (s : State) : exec (.sknp x) s = .next (s.after (.sknp x)) :=
  keySkip_eq_after rfl rfl rfl

theorem exec_ldK (x : Idx) (s : State) : exec (.ldK x) s = .next (s.after (.ldK x)) := by
  change execLdK x s = _
  rw [State.after_of_no_fault rfl, execLdK, State.writes, State.action]
  by_cases hdoc : s.cfg.implDocOps = true
  · rw [if_pos hdoc, if_pos hdoc, if_pos hdoc]
    cases s.lowestKey <;> rfl
  · rw [if_neg hdoc, if_neg hdoc, if_neg hdoc]
    rfl

theorem exec_ldF (x : Idx) (s : State) : exec (.ldF x) s = .next (s.after (.ldF x)) := by
  change execLdF x s = _
  rw [State.after_of_no_fault rfl, execLdF, State.writes]
  by_cases hdoc : s.cfg.implDocOps = true
  · rw [if_pos hdoc, if_pos hdoc]
    rfl
  · rw [if_neg hdoc, if_neg hdoc]
    rfl

theorem exec_ldB (x : Idx) (s : State) : exec (.ldB x) s = .next (s.after (.ldB x)) := by
  change execLdB x s = _
  by_cases hdoc : s.cfg.implDocOps = true
  · rw [execLdB, if_pos hdoc]
    rcases storeBlock_cases s.i.toNat (decimalDigits (s.reg x)) s with ⟨hle, hstore⟩ | ⟨hgt, hstore⟩
    · have hf : faultCondition (.ldB x) s = none := if_neg (fun h => absurd h.2 (Nat.not_lt.2 hle))
      rw [hstore, State.after_of_no_fault hf, State.writes, if_pos hdoc]
      rfl
    · have hf : faultCondition (.ldB x) s = some .writeOutOfRange := if_pos ⟨hdoc, hgt⟩
      rw [hstore, State.after_of_fault hf]
      rfl
  · have hf : faultCondition (.ldB x) s = none := if_neg (fun h => hdoc h.1)
    rw [execLdB, if_neg hdoc, State.after_of_no_fault hf, State.writes, if_neg hdoc]
    rfl

theorem exec_ldMemRegs (x : Idx) (s : State) : exec (.ldMemRegs x) s = .next (s.after (.ldMemRegs x)) := by
  change execLdMemRegs x s = _
  have hcases := storeBlock_cases s.i.toNat (s.regsUpTo x) s
  rw [State.length_regsUpTo] at hcases
  rcases hcases with ⟨hle, hstore⟩ | ⟨hgt, hstore⟩
  · have hf : faultCondition (.ldMemRegs x) s = none := if_neg (Nat.not_lt.2 hle)
    rw [execLdMemRegs, hstore, State.after_of_no_fault hf]
    rfl
  · have hf : faultCondition (.ldMemRegs x) s = some .writeOutOfRange := if_pos hgt
    rw [execLdMemRegs, hstore, State.after_of_fault hf]
    rfl

theorem exec_ldRegsMem (x : Idx) (s : State) : exec (.ldRegsMem x) s = .next (s.after (.ldRegsMem x)) := by
  change execLdRegsMem x s = _
  rcases readBlock_cases s.i.toNat (x.val + 1) s with ⟨hle, hread⟩ | ⟨hgt, hread⟩
  · have hf : faultCondition (.ldRegsMem x) s = none := if_neg (Nat.not_lt.2 hle)
    rw [execLdRegsMem, hread, State.after_of_no_fault hf]
    exact congrArg (complete .next) (s.loadRegs_eq_loadedRegs _ 0)
  · have hf : faultCondition (.ldRegsMem x) s = some .readOutOfRange := if_pos hgt
    rw [execLdRegsMem, hread, State.after_of_fault hf]
    rfl

/-- A flagged operation that completes, in the form `State.writes` gives it. -/
theorem complete_writeResultAndFlag (s : State) (x : Idx) (r f : Byte) :
    complete .next (s.writeResultAndFlag x r f) =
      .next (({ s with v := s.flaggedRegs x r f } : State).applyPc .next) := by
  rw [State.writeResultAndFlag_eq_flaggedRegs, complete_eq]

/-- Every instruction answers its next state; the handlers without a branch do so by definition. -/
theorem exec_eq_after (i : Instr) (s : State) : exec i s = .next (s.after i) := by
  cases i with
  | ret => exact exec_ret s
  | call nnn => exact exec_call nnn s
  | drw x y n => exact exec_drw x y n s
  | skp x => exact exec_skp x s
  | sknp x => exact exec_sknp x s
  | ldK x => exact exec_ldK x s
  | ldF x => exact exec_ldF x s
  | ldB x => exact exec_ldB x s
  | ldMemRegs x => exact exec_ldMemRegs x s
  | ldRegsMem x => exact exec_ldRegsMem x s
  | addReg x y => exact complete_writeResultAndFlag s ..
  | subReg x y => exact complete_writeResultAndFlag s ..
  | shr x y => exact complete_writeResultAndFlag s ..
  | subn x y => exact complete_writeResultAndFlag s ..
  | shl x y => exact complete_writeResultAndFlag s ..
  | _ => rfl

end Sys2Proof.Machine
end

section
/-! PROOFS. The frames over every instruction (10_state.md sections 1 to 7, 20_memory.md section 3) and the fault table
(60_exceptions.md section 1), read off from `exec_eq_after`. -/

namespace Sys2Proof.Machine

theorem eq_after_of_exec {i : Instr} {s t : State} (h : exec i s = .next t) : t = s.after i := by
  rw [exec_eq_after] at h
  cases h
  rfl

/-- The state after an instruction, with the row of the fault table that decides between its two forms. -/
theorem State.after_cases (s : State) (i : Instr) :
    (∃ k, faultCondition i s = some k ∧ s.after i = s.withFault k (encode i)) ∨
      (faultCondition i s = none ∧ s.after i = (s.writes i).applyPc (s.action i)) := by
  cases hf : faultCondition i s with
  | some k => exact .inl ⟨k, rfl, State.after_of_fault hf⟩
  | none => exact .inr ⟨rfl, State.after_of_no_fault hf⟩

/-- What neither a fault nor the program-counter action touches is unchanged if the writes leave it unchanged. -/
theorem State.after_keeps {α : Type} (f : State → α) {s : State} {i : Instr} (hw : f (s.writes i) = f s)
    (hpc : ∀ t act, f (State.applyPc t act) = f t := by intros; rfl)
    (hfault : ∀ t k w, f (State.withFault t k w) = f t := by intros; rfl) : f (s.after i) = f s := by
  rcases s.after_cases i with ⟨k, -, h⟩ | ⟨-, h⟩
  · rw [h, hfault]
  · rw [h, hpc, hw]

/-! ### What the writes of each instruction leave unchanged -/

theorem State.writes_cfg (s : State) (i : Instr) : (s.writes i).cfg = s.cfg := by cases i <;> rfl

theorem State.writes_key (s : State) (i : Instr) : (s.writes i).key = s.key := by cases i <;> rfl

theorem State.writes_pc (s : State) (i : Instr) : (s.writes i).pc = s.pc := by cases i <;> rfl

theorem State.writes_fault (s : State) (i : Instr) : (s.writes i).fault = s.fault := by cases i <;> rfl

theorem State.writes_i {s : State} {i : Instr}
    (h : ∀ a x, i ≠ .ldI a ∧ i ≠ .ldIV0 a ∧ i ≠ .addI x ∧ i ≠ .ldF x) : (s.writes i).i = s.i := by
  cases i with
  | ldI a => exact absurd rfl (h a 0).1
  | ldIV0 a => exact absurd rfl (h a 0).2.1
  | addI x => exact absurd rfl (h 0 x).2.2.1
  | ldF x => exact absurd rfl (h 0 x).2.2.2
  | _ => rfl

theorem State.writes_stack {s : State} {i : Instr} (h : ∀ a, i ≠ .call a) : (s.writes i).stack = s.stack := by
  cases i with
  | call a => exact absurd rfl (h a)
  | _ => rfl

theorem State.writes_sp {s : State} {i : Instr} (h : ∀ a, i ≠ .call a ∧ i ≠ .ret) : (s.writes i).sp = s.sp := by
  cases i with
  | call a => exact absurd rfl (h a).1
  | ret => exact absurd rfl (h 0).2
  | _ => rfl

theorem State.writes_dt {s : State} {i : Instr} (h : ∀ x, i ≠ .ldDtVx x) : (s.writes i).dt = s.dt := by
  cases i with
  | ldDtVx x => exact absurd rfl (h x)
  | _ => rfl

theorem State.writes_st {s : State} {i : Instr} (h : ∀ x, i ≠ .ldStVx x) : (s.writes i).st = s.st := by
  cases i with
  | ldStVx x => exact absurd rfl (h x)
  | _ => rfl

theorem State.writes_planes {s : State} {i : Instr} (h : ∀ x y n, i ≠ .cls ∧ i ≠ .drw x y n) :
    ((s.writes i).disp, (s.writes i).scr) = (s.disp, s.scr) := by
  cases i with
  | cls => exact absurd rfl (h 0 0 0).1
  | drw x y n => exact absurd rfl (h x y n).2
  | _ => rfl

theorem State.writes_rndDraws {s : State} {i : Instr} (h : ∀ x kk, i ≠ .rnd x kk) :
    (s.writes i).rndDraws = s.rndDraws := by
  cases i with
  | rnd x kk => exact absurd rfl (h x kk)
  | _ => rfl

theorem State.writes_mem {s : State} {i : Instr} (h : ∀ x, i ≠ .ldB x ∧ i ≠ .ldMemRegs x) :
    (s.writes i).mem = s.mem := by
  cases i with
  | ldB x => exact absurd rfl (h x).1
  | ldMemRegs x => exact absurd rfl (h x).2
  | _ => rfl

/-! ### Registers (10_state.md R22) -/

theorem State.reg_setReg_of_beq_false {s : State} {x r : Idx} (b : Byte) (h : (r == x) = false) :
    (s.setReg x b).reg r = s.reg r := by
  rw [State.reg_setReg, if_neg (beq_eq_false_iff_ne.1 h)]

/-- The key wait writes at most its destination. -/
theorem State.reg_keyWait {s : State} {x r : Idx} (h : (r == x) = false) :
    (s.writes (.ldK x)).reg r = s.reg r := by
  rw [State.writes]
  split
  · cases s.lowestKey with
    | none => rfl
    | some k => exact State.reg_setReg_of_beq_false (byteOfIdx k) h
  · rfl

/-- A flagged operation writes at most its destination and `VF`. -/
theorem State.reg_flaggedRegs_of_ne {s : State} {x q : Idx} (r f : Byte) (h : (q == x || q == vf) = false) :
    ({ s with v := s.flaggedRegs x r f } : State).reg q = s.reg q := by
  obtain ⟨hx, hvf⟩ := Bool.or_eq_false_iff.1 h
  rw [beq_eq_false_iff_ne] at hx hvf
  rw [← State.writeResultAndFlag_eq_flaggedRegs, State.reg_writeResultAndFlag, if_neg hx, if_neg hvf, if_neg hx, ite_self]

/-- A draw writes at most `VF`, as it reports the collision (44_display.md R185, R188). -/
theorem State.reg_writes_drw (s : State) (x y : Idx) (n : Fin 16) (q : Idx) :
    (s.writes (.drw x y n)).reg q =
      if q = vf then (if (s.drawn x y n.val).col then 1#8 else if s.cfg.drawClearsVf then 0#8 else s.reg vf)
      else s.reg q := by
  rw [← State.reg_writeCollision, State.writeCollision_eq_collisionRegs]
  rfl

/-- The block load writes the registers `V[0]` to `V[x]` from the bytes at `I` upwards (43_index_memory.md R167). -/
theorem State.reg_writes_ldRegsMem (s : State) (x r : Idx) :
    (s.writes (.ldRegsMem x)).reg r = if r.val < x.val + 1 then s.mem.read (s.i.toNat + r.val) else s.reg r := by
  have hload := s.reg_loadRegs (s.mem.readBlock s.i.toNat (x.val + 1)) 0 r
  rw [if_pos (Nat.zero_le _), Memory.getD_readBlock, Nat.sub_zero, State.loadRegs_eq_loadedRegs] at hload
  exact hload

theorem State.writes_reg {s : State} {i : Instr} {r : Idx} (h : mayWriteReg i r = false) :
    (s.writes i).reg r = s.reg r := by
  cases i with
  | ldImm x kk => exact State.reg_setReg_of_beq_false _ h
  | addImm x kk => exact State.reg_setReg_of_beq_false _ h
  | ldReg x y => exact State.reg_setReg_of_beq_false _ h
  | orReg x y => exact State.reg_setReg_of_beq_false _ h
  | andReg x y => exact State.reg_setReg_of_beq_false _ h
  | xorReg x y => exact State.reg_setReg_of_beq_false _ h
  | rnd x kk => exact State.reg_setReg_of_beq_false (s := s.consumeRnd) _ h
  | ldVxDt x => exact State.reg_setReg_of_beq_false _ h
  | ldK x => exact State.reg_keyWait h
  | addReg x y => exact State.reg_flaggedRegs_of_ne _ _ h
  | subReg x y => exact State.reg_flaggedRegs_of_ne _ _ h
  | shr x y => exact State.reg_flaggedRegs_of_ne _ _ h
  | subn x y => exact State.reg_flaggedRegs_of_ne _ _ h
  | shl x y => exact State.reg_flaggedRegs_of_ne _ _ h
  | drw x y n =>
    have hvf : r ≠ vf := beq_eq_false_iff_ne.1 h
    rw [State.reg_writes_drw, if_neg hvf]
  | ldRegsMem x =>
    have hr : ¬ r.val < x.val + 1 := fun hlt => of_decide_eq_false h (Nat.le_of_lt_succ hlt)
    rw [State.reg_writes_ldRegsMem, if_neg hr]
  | _ => rfl

/-- Settles O42: the writes keep every register outside the instruction's row, and so does the rest of the instruction. -/
theorem onlyTabledInstructionsWriteRegisters : Obligations.OnlyTabledInstructionsWriteRegisters := by
  intro i s t r hexec hrow
  rw [eq_after_of_exec hexec]
  exact State.after_keeps (·.reg r) (State.writes_reg hrow)

/-- Settles O44: field by field, from what the writes of each instruction leave unchanged. -/
theorem specialStateHasOnlyItsOwnWriters : Obligations.SpecialStateHasOnlyItsOwnWriters := by
  intro i s t hexec
  rw [eq_after_of_exec hexec]
  refine ⟨?_, ?_, fun h => ?_, fun h => ?_, fun h => ?_, fun h => ?_, fun h => ?_, fun h => ?_, fun h => ?_⟩
  · exact State.after_keeps (·.key) (s.writes_key i)
  · exact State.after_keeps (·.cfg) (s.writes_cfg i)
  · exact State.after_keeps (·.i) (State.writes_i h)
  · exact State.after_keeps (·.stack) (State.writes_stack h)
  · exact State.after_keeps (·.sp) (State.writes_sp h)
  · exact State.after_keeps (·.dt) (State.writes_dt h)
  · exact State.after_keeps (·.st) (State.writes_st h)
  · exact Prod.ext_iff.1 (State.after_keeps (fun t => (t.disp, t.scr)) (State.writes_planes h))
  · exact State.after_keeps (·.rndDraws) (State.writes_rndDraws h)

/-! ### The fault table -/

/-- Settles O11: the two forms of `State.after`. -/
theorem faultsExactlyWhenTableSays : Obligations.FaultsExactlyWhenTableSays := by
  refine fun i s => ⟨fun k hf => ?_, fun hf => ⟨s.after i, exec_eq_after i s, ?_⟩⟩
  · rw [exec_eq_after, State.after_of_fault hf, State.withFault_eq]
  · rw [State.after_of_no_fault hf, State.applyPc_fault, State.writes_fault]

/-- Settles O10: the six equations of `FaultKind.code`. -/
theorem faultCodesAreTheTable : Obligations.FaultCodesAreTheTable := ⟨rfl, rfl, rfl, rfl, rfl, rfl⟩

end Sys2Proof.Machine
end

section
/-! PROOFS. Memory accesses (20_memory.md section 2) and the memory transfers (43_index_memory.md R165 to R167; 40_engine.md
R101). -/

namespace Sys2Proof.Machine

/-! ### One byte -/

theorem memRead_of_le {a : Nat} {s : State} (h : a ≤ 0xFFF) : memRead a s = .ok (s.mem.read a) :=
  if_neg (Nat.not_lt.2 h)

theorem memRead_of_gt {a : Nat} {s : State} (h : a > 0xFFF) : memRead a s = .error .readOutOfRange := if_pos h

theorem memWrite_of_le {a : Nat} {b : Byte} {s : State} (h : a ≤ 0xFFF) :
    memWrite a b s = .ok { s with mem := s.mem.write a b } :=
  if_neg (Nat.not_lt.2 h)

theorem memWrite_of_gt {a : Nat} {b : Byte} {s : State} (h : a > 0xFFF) : memWrite a b s = .error .writeOutOfRange :=
  if_pos h

/-- Settles O35: a read after a write is `Memory.read_write`; a read elsewhere faults in both states or in neither. -/
theorem memoryReadsBackWhatWasWritten : Obligations.MemoryReadsBackWhatWasWritten := by
  refine fun a b s hwf => ⟨fun ha => ⟨_, memWrite_of_le ha, ?_, fun c hc => ?_, Memory.write_wf hwf ha, rfl⟩,
    fun ha => ⟨memWrite_of_gt ha, memRead_of_gt ha⟩⟩
  · rw [memRead_of_le ha, Memory.read_write hwf, if_pos rfl]
  · by_cases hle : c ≤ 0xFFF
    · rw [memRead_of_le hle, memRead_of_le hle, Memory.read_write hwf, if_neg hc]
    · rw [memRead_of_gt (Nat.not_le.1 hle), memRead_of_gt (Nat.not_le.1 hle)]

/-! ### A stored block -/

section StoredBlock

variable {m : Memory} {a : Nat} {bs : List Byte} (hwf : m.wf = true) (hfit : a + bs.length ≤ lastAddr + 1)
include hwf hfit

/-- Each byte of a stored block is read back. -/
theorem Memory.read_writeBlock_inside {k : Nat} (hk : k < bs.length) : (m.writeBlock a bs).read (a + k) = bs.getD k 0 := by
  rw [Memory.read_writeBlock hwf hfit, if_pos (by omega), Nat.add_sub_cancel_left]

/-- A stored block changes no byte outside it. -/
theorem Memory.read_writeBlock_outside {c : Nat} (hc : c < a ∨ a + bs.length ≤ c) :
    (m.writeBlock a bs).read c = m.read c := by
  rw [Memory.read_writeBlock hwf hfit, if_neg (by omega)]

end StoredBlock

/-! ### `Fx33` -/

@[simp] theorem length_decimalDigits (b : Byte) : (decimalDigits b).length = 3 := rfl

/-- The three digits of a byte, as numbers. -/
theorem toNat_decimalDigits (b : Byte) :
    ((decimalDigits b).getD 0 0).toNat = b.toNat / 100 ∧ ((decimalDigits b).getD 1 0).toNat = b.toNat / 10 % 10 ∧
      ((decimalDigits b).getD 2 0).toNat = b.toNat % 10 := by
  have hb := b.isLt
  refine ⟨Nat.mod_eq_of_lt ?_, Nat.mod_eq_of_lt ?_, Nat.mod_eq_of_lt ?_⟩ <;> omega

theorem mem_writes_ldB {s : State} (hdoc : s.cfg.implDocOps = true) (x : Idx) :
    (s.writes (.ldB x)).mem = s.mem.writeBlock s.i.toNat (decimalDigits (s.reg x)) :=
  if_pos hdoc

theorem mem_writes_ldB_of_not_implDocOps {s : State} (hdoc : ¬ s.cfg.implDocOps = true) (x : Idx) :
    (s.writes (.ldB x)).mem = s.mem :=
  if_neg hdoc

/-- `Fx33` where its three bytes are in the address space. -/
theorem exec_ldB_of_le {s : State} {x : Idx} (hdoc : s.cfg.implDocOps = true) (hle : s.i.toNat + 2 ≤ 0xFFF) :
    exec (.ldB x) s =
      .next { s with mem := s.mem.writeBlock s.i.toNat (decimalDigits (s.reg x)), pc := s.pc + 2#16 } := by
  have hf : faultCondition (.ldB x) s = none := if_neg (fun h => Nat.not_lt.2 hle h.2)
  rw [exec_ldB, State.after_of_no_fault hf, ← mem_writes_ldB hdoc]
  rfl

/-- Settles O32: the stored block is the three digits, and its last byte beyond 0xFFF is the fault's condition. -/
theorem ldBStoresDecimalDigits : Obligations.LdBStoresDecimalDigits := by
  refine fun x s hdoc hwf => ⟨fun hle => ?_, fun hgt => ?_⟩
  · have hfit : s.i.toNat + (decimalDigits (s.reg x)).length ≤ lastAddr + 1 := Nat.succ_le_succ hle
    have hread : ∀ k, k < 3 → _ := fun k hk => Memory.read_writeBlock_inside hwf hfit (k := k) hk
    obtain ⟨h0, h1, h2⟩ := toNat_decimalDigits (s.reg x)
    rw [← hread 0 (by decide)] at h0
    rw [← hread 1 (by decide)] at h1
    rw [← hread 2 (by decide)] at h2
    have hb := (s.reg x).isLt
    refine ⟨_, exec_ldB_of_le hdoc hle, ?_, ?_, ?_, ?_, fun a ha => ?_, rfl, Memory.writeBlock_wf hwf hfit⟩
    · calc _ = (s.reg x).toNat / 100 * 100 + (s.reg x).toNat / 10 % 10 * 10 + (s.reg x).toNat % 10 := by
            rw [← h0, ← h1, ← h2]; rfl
        _ = (s.reg x).toNat := by omega
    · exact h0.trans_le (by omega)
    · exact h1.trans_le (by omega)
    · exact h2.trans_le (by omega)
    · refine Memory.read_writeBlock_outside hwf hfit ?_
      rw [length_decimalDigits]
      omega
  · have hf : faultCondition (.ldB x) s = some .writeOutOfRange := if_pos ⟨hdoc, hgt⟩
    rw [exec_ldB, State.after_of_fault hf, State.withFault_eq]

/-! ### `Fx55` and `Fx65` -/

/-- `Fx55` where its bytes are in the address space. -/
theorem exec_ldMemRegs_of_le {s : State} {x : Idx} (hle : s.i.toNat + x.val ≤ 0xFFF) :
    exec (.ldMemRegs x) s =
      .next { s with mem := s.mem.writeBlock s.i.toNat (s.regsUpTo x), pc := s.pc + 2#16 } := by
  have hf : faultCondition (.ldMemRegs x) s = none := if_neg (Nat.not_lt.2 hle)
  rw [exec_ldMemRegs, State.after_of_no_fault hf]
  rfl

/-- Settles O33: the stored block is the registers `V[0]` to `V[x]`. -/
theorem storeRegsCopiesV0ToVx : Obligations.StoreRegsCopiesV0ToVx := by
  refine fun x s hwf => ⟨fun hle => ?_, fun hgt => ?_⟩
  · have hlen := s.length_regsUpTo x
    have hfit : s.i.toNat + (s.regsUpTo x).length ≤ lastAddr + 1 := by
      rw [hlen]
      exact Nat.succ_le_succ hle
    refine ⟨_, exec_ldMemRegs_of_le hle, fun k hk => ?_, fun a ha => ?_, rfl, Memory.writeBlock_wf hwf hfit⟩
    · exact (Memory.read_writeBlock_inside hwf hfit (by omega)).trans (s.getD_regsUpTo x k hk 0)
    · exact Memory.read_writeBlock_outside hwf hfit (by omega)
  · have hf : faultCondition (.ldMemRegs x) s = some .writeOutOfRange := if_pos hgt
    rw [exec_ldMemRegs, State.after_of_fault hf, State.withFault_eq]

/-- Settles O34: the registers after the load are `State.reg_writes_ldRegsMem`. -/
theorem loadRegsCopiesToV0ToVx : Obligations.LoadRegsCopiesToV0ToVx := by
  refine fun x s => ⟨fun hle => ?_, fun hgt => ?_⟩
  · have hf : faultCondition (.ldRegsMem x) s = none := if_neg (Nat.not_lt.2 hle)
    refine ⟨_, (exec_ldRegsMem x s).trans (congrArg _ (State.after_of_no_fault hf)), fun r => ?_, rfl, rfl, fun _ => rfl⟩
    rw [State.reg_applyPc, State.reg_writes_ldRegsMem]
    simp only [Nat.lt_succ_iff]
  · have hf : faultCondition (.ldRegsMem x) s = some .readOutOfRange := if_pos hgt
    rw [exec_ldRegsMem, State.after_of_fault hf, State.withFault_eq]

/-! ### No other instruction stores -/

/-- The memory after an instruction that may store: as before, or with the block of the instruction written. -/
theorem State.mem_after_ldB (s : State) (x : Idx) :
    (s.after (.ldB x)).mem = s.mem ∨
      (s.i.toNat + 2 ≤ 0xFFF ∧ (s.after (.ldB x)).mem = s.mem.writeBlock s.i.toNat (decimalDigits (s.reg x))) := by
  rcases s.after_cases (.ldB x) with ⟨k, -, h⟩ | ⟨hf, h⟩
  · exact .inl (by rw [h, State.withFault_mem])
  · rw [h, State.applyPc_mem]
    by_cases hdoc : s.cfg.implDocOps = true
    · refine .inr ⟨Nat.not_lt.1 fun hgt => ?_, mem_writes_ldB hdoc x⟩
      have hsome : faultCondition (.ldB x) s = some .writeOutOfRange := if_pos ⟨hdoc, hgt⟩
      exact absurd (hsome.symm.trans hf) (by simp)
    · exact .inl (mem_writes_ldB_of_not_implDocOps hdoc x)

theorem State.mem_after_ldMemRegs (s : State) (x : Idx) :
    (s.after (.ldMemRegs x)).mem = s.mem ∨
      (s.i.toNat + x.val ≤ 0xFFF ∧ (s.after (.ldMemRegs x)).mem = s.mem.writeBlock s.i.toNat (s.regsUpTo x)) := by
  rcases s.after_cases (.ldMemRegs x) with ⟨k, -, h⟩ | ⟨hf, h⟩
  · exact .inl (by rw [h, State.withFault_mem])
  · refine .inr ⟨Nat.not_lt.1 fun hgt => ?_, by rw [h]; rfl⟩
    have hsome : faultCondition (.ldMemRegs x) s = some .writeOutOfRange := if_pos hgt
    exact absurd (hsome.symm.trans hf) (by simp)

/-- Settles O43: the two instructions store one block, and change no byte outside it. -/
theorem onlyTwoInstructionsStoreToMemory : Obligations.OnlyTwoInstructionsStoreToMemory := by
  intro i s t hexec
  rw [eq_after_of_exec hexec]
  refine ⟨fun h => State.after_keeps (·.mem) (State.writes_mem h), ?_⟩
  rintro x a hwf (⟨rfl, ha⟩ | ⟨rfl, ha⟩)
  · rcases s.mem_after_ldB x with h | ⟨hle, h⟩
    · rw [h]
    · rw [h]
      refine Memory.read_writeBlock_outside hwf (Nat.succ_le_succ hle) ?_
      rw [length_decimalDigits]
      omega
  · rcases s.mem_after_ldMemRegs x with h | ⟨hle, h⟩
    · rw [h]
    · have hlen := s.length_regsUpTo x
      rw [h]
      exact Memory.read_writeBlock_outside hwf (by rw [hlen]; exact Nat.succ_le_succ hle) (by omega)

/-! ### Load -/

/-- Settles O51: the image, truncated to what fits, is one stored block. -/
theorem loadCopiesTheTruncatedImage : Obligations.LoadCopiesTheTruncatedImage := by
  intro image s hwf
  have hlen : (image.take maxImage).length = min 0xE00 image.length := List.length_take
  have hfit : progBase + (image.take maxImage).length ≤ lastAddr + 1 := by
    unfold progBase lastAddr
    omega
  refine ⟨_, rfl, fun k hk hmax => ?_, fun a ha => ?_, rfl, load_wf hwf⟩
  · refine (Memory.read_writeBlock_inside hwf hfit (by omega)).trans ?_
    rw [List.getD_eq_getElem?_getD, List.getElem?_take_of_lt (show k < maxImage from hmax), List.getD_eq_getElem?_getD]
    rfl
  · refine Memory.read_writeBlock_outside hwf hfit ?_
    unfold progBase
    omega

end Sys2Proof.Machine
end

section
/-! PROOFS. The Cycle (40_engine.md section 1) and its faults (60_exceptions.md section 1). -/

namespace Sys2Proof.Machine

/-- The word at `PC`, high byte first (20_memory.md R54). -/
def State.fetched (s : State) : Word := s.mem.read s.pc.toNat ++ s.mem.read (s.pc.toNat + 1)

theorem fetchWord_of_le {s : State} (h : s.pc.toNat ≤ 0xFFE) : fetchWord s = .ok s.fetched := by
  rcases fetchWord_cases s with ⟨-, hfetch⟩ | ⟨hgt, -⟩
  · exact hfetch
  · exact absurd h (Nat.not_le.2 hgt)

theorem fetchWord_of_gt {s : State} (h : s.pc.toNat > 0xFFE) : fetchWord s = .error .fetchOutOfRange := by
  rcases fetchWord_cases s with ⟨hle, -⟩ | ⟨-, hfetch⟩
  · exact absurd hle (Nat.not_le.2 h)
  · exact hfetch

/-! ### The three kinds of Cycle -/

theorem not_halted_of_running {s : State} (h : s.Running) : ¬ s.halted = true := fun hh => (State.halted_iff s).1 hh h

theorem step_of_not_running {s : State} (h : ¬ s.Running) : step s = .next s := by
  rw [step, if_pos ((State.halted_iff s).2 h)]

theorem step_of_fetch_fault {s : State} (hrun : s.Running) (hpc : s.pc.toNat > 0xFFE) :
    step s = .next (s.withFault .fetchOutOfRange 0#16) := by
  rw [step, if_neg (not_halted_of_running hrun), fetchWord_of_gt hpc]
  rfl

theorem step_of_fetched {s : State} (hrun : s.Running) (hpc : s.pc.toNat ≤ 0xFFE) :
    step s = exec (decodeWord s.fetched) s := by
  rw [step, if_neg (not_halted_of_running hrun), fetchWord_of_le hpc]

/-- The state after a Cycle. -/
def State.cycle (s : State) : State :=
  if s.halted then s
  else if s.pc.toNat > 0xFFE then s.withFault .fetchOutOfRange 0#16
  else s.after (decodeWord s.fetched)

theorem step_eq_cycle (s : State) : step s = .next s.cycle := by
  by_cases hrun : s.Running
  · rw [State.cycle, if_neg (not_halted_of_running hrun)]
    by_cases hpc : s.pc.toNat > 0xFFE
    · rw [if_pos hpc, step_of_fetch_fault hrun hpc]
    · rw [if_neg hpc, step_of_fetched hrun (Nat.not_lt.1 hpc), exec_eq_after]
  · rw [State.cycle, if_pos ((State.halted_iff s).2 hrun), step_of_not_running hrun]

/-- What a Cycle can do. -/
theorem step_cases {s t : State} (h : step s = .next t) :
    (¬ s.Running ∧ t = s) ∨
    (s.Running ∧ s.pc.toNat > 0xFFE ∧ t = s.withFault .fetchOutOfRange 0#16) ∨
    (s.Running ∧ s.pc.toNat ≤ 0xFFE ∧ t = s.after (decodeWord s.fetched)) := by
  by_cases hrun : s.Running
  · by_cases hpc : s.pc.toNat > 0xFFE
    · rw [step_of_fetch_fault hrun hpc] at h
      cases h
      exact .inr (.inl ⟨hrun, hpc, rfl⟩)
    · rw [step_of_fetched hrun (Nat.not_lt.1 hpc)] at h
      exact .inr (.inr ⟨hrun, Nat.not_lt.1 hpc, eq_after_of_exec h⟩)
  · rw [step_of_not_running hrun] at h
    cases h
    exact .inl ⟨hrun, rfl⟩

/-- Settles O6: `decodeBytes` on two bytes decodes the word that the fetch reads. -/
theorem stepRunsTheDecodedInstruction : Obligations.StepRunsTheDecodedInstruction := by
  refine fun _ hrun hpc => ⟨step_of_fetched hrun hpc, fun _ _ hi => ?_⟩
  cases hi
  exact step_of_fetched hrun hpc

/-- Settles O7: the two cases of the fetch, and the Cycle of the second. -/
theorem fetchReadsBigEndianOrFaults : Obligations.FetchReadsBigEndianOrFaults := fun _ =>
  ⟨fetchWord_of_le, fun hpc => ⟨fetchWord_of_gt hpc, fun hrun => step_of_fetch_fault hrun hpc⟩⟩

theorem core_run_succ {s t : State} (h : step s = .next t) (k : Nat) : core.run (k + 1) s = core.run k t := by
  have hstep : core.step s = .next t := h
  simp only [Host.Core.run, hstep]

/-- Settles O8: by induction on the number of Cycles, each of which answers the state it is given. -/
theorem faultedMachineStandsStill : Obligations.FaultedMachineStandsStill := by
  refine fun s h => ⟨step_of_not_running h, fun k => ?_⟩
  induction k with
  | zero => rfl
  | succ k ih =>
    exact (core_run_succ (step_of_not_running h) k).trans ih

/-- Settles O9: the state is `State.cycle`. -/
theorem everyCycleEndsInANextState : Obligations.EveryCycleEndsInANextState := fun s => ⟨s.cycle, step_eq_cycle s⟩

/-! ### Faults of a Cycle -/

theorem State.not_running_withFault (s : State) (k : FaultKind) (w : Word) : ¬ (s.withFault k w).Running :=
  k.code_ne_zero

/-- Settles O12: only the fetch fault and the faults of the table change `FAULT`; the word of the second is the fetched one,
since the encoding of a decoded word is that word. -/
theorem cycleFaultsArePrecise : Obligations.CycleFaultsArePrecise := by
  intro s t hstep hne
  rcases step_cases hstep with ⟨-, rfl⟩ | ⟨hrun, hpc, rfl⟩ | ⟨hrun, hpc, rfl⟩
  · exact absurd rfl hne
  · exact ⟨hrun, s.not_running_withFault _ _, rfl, rfl, (if_pos hpc).symm⟩
  · rcases s.after_cases (decodeWord s.fetched) with ⟨k, -, h⟩ | ⟨-, h⟩
    · rw [h, encode_decodeWord]
      exact ⟨hrun, s.not_running_withFault _ _, rfl, rfl, (if_neg (Nat.not_lt.2 hpc)).symm⟩
    · rw [h, State.applyPc_fault, State.writes_fault] at hne
      exact absurd rfl hne

end Sys2Proof.Machine
end

section
/-! PROOFS. Call, return and jump (41_control_flow.md R110 to R112). -/

namespace Sys2Proof.Machine

/-! ### The stack pointer away from its ends -/

theorem val_sub_one_of_ne_zero {k : Fin 16} (h : k.val ≠ 0) : (k - 1).val = k.val - 1 := by
  have hk : k ≠ 0 := fun e => h (congrArg Fin.val e)
  exact Fin.val_sub_one_of_ne_zero hk

theorem val_add_one_of_ne_last {k : Fin 16} (h : k.val ≠ 15) : (k + 1).val = k.val + 1 := by
  have hk : k < Fin.last 15 := Fin.lt_last_iff_ne_last.2 (fun e => h (congrArg Fin.val e))
  exact Fin.val_add_one_of_lt hk

/-- `00EE` with a return address on the stack. -/
theorem exec_ret_of_ne {s : State} (h : s.sp.val ≠ 0) :
    exec .ret s = .next ((s.setSp (s.sp - 1)).applyPc (.jump (s.stackAt s.sp + 2#16))) := by
  have hf : faultCondition .ret s = none := if_neg h
  rw [exec_ret, State.after_of_no_fault hf]
  rfl

/-- `2nnn` with room on the stack. -/
theorem exec_call_of_ne {s : State} (nnn : Addr) (h : s.sp.val ≠ 15) :
    exec (.call nnn) s =
      .next (((s.setSp (s.sp + 1)).setStack (s.sp + 1) s.pc).applyPc (.jump (s.jumpTarget nnn))) := by
  have hf : faultCondition (.call nnn) s = none := if_neg h
  rw [exec_call, State.after_of_no_fault hf]
  rfl

/-- Settles O13: the row of the fault table decides between the pop and the fault. -/
theorem retReturnsAfterTheCall : Obligations.RetReturnsAfterTheCall := by
  refine fun s => ⟨fun h => ?_, fun h => ?_⟩
  · exact ⟨_, exec_ret_of_ne h, val_sub_one_of_ne_zero h, rfl, rfl, fun _ => rfl⟩
  · have hf : faultCondition .ret s = some .stackUnderflow := if_pos h
    rw [exec_ret, State.after_of_fault hf, State.withFault_eq]
    rfl

/-- Settles O14: the target does not wrap. -/
theorem jpLandsOnItsTarget : Obligations.JpLandsOnItsTarget := fun nnn s =>
  ⟨s.applyPc (.jump (s.jumpTarget nnn)), rfl, s.toNat_jumpTarget nnn, rfl, fun _ => rfl⟩

/-- Settles O15: the row of the fault table decides between the push and the fault. -/
theorem callPushesItsOwnAddress : Obligations.CallPushesItsOwnAddress := by
  refine fun nnn s => ⟨fun h => ⟨_, exec_call_of_ne nnn h, val_add_one_of_ne_last h, fun k => ?_,
    s.toNat_jumpTarget nnn, rfl, fun _ => rfl⟩, fun h => ?_⟩
  · rw [State.stackAt_applyPc, State.stackAt_setStack, State.stackAt_setSp]
    rfl
  · have hf : faultCondition (.call nnn) s = some .stackOverflow := if_pos h
    rw [exec_call, State.after_of_fault hf, State.withFault_eq]
    rfl

/-- Settles O16: the entry that the call pushed, above the old `SP`, is the one the return pops. -/
theorem callThenRetResumesAfterTheCall : Obligations.CallThenRetResumesAfterTheCall := by
  intro nnn s h
  have hval := val_add_one_of_ne_last h
  have hback : s.sp + 1 - 1 = s.sp := add_sub_cancel_right s.sp 1
  refine ⟨_, _, exec_call_of_ne nnn h, exec_ret_of_ne ?_, ?_, ?_, fun k hk => ?_⟩
  · change (s.sp + 1).val ≠ 0
    omega
  · rw [State.applyPc_pc, PcAction.target_jump]
    simp only [State.applyPc_sp, State.setStack_sp, State.setSp_sp, State.stackAt_applyPc, State.stackAt_setStack, if_true]
  · change State.mk .. = State.mk ..
    simp only [State.applyPc_sp, State.setStack_sp, State.setSp_sp, hback]
    rfl
  · have hne : k ≠ s.sp + 1 := fun e => by
      have := congrArg Fin.val e
      omega
    simp only [State.stackAt_applyPc, State.stackAt_setSp, State.stackAt_setStack, if_neg hne]

end Sys2Proof.Machine
end

section
/-! PROOFS. The flagged ALU operations, the random byte, `Fx1E`, `Fx29`, the key tests and the key wait, and the flag
functions as arguments (42_alu.md sections 1, 3 and 4; 43_index_memory.md R161, R164; 45_keys_timers.md R200 to R202). -/

namespace Sys2Proof.Machine

/-! ### Result and flag -/

/-- A state whose only changes are a result, a flag and `PC + 2` is what `FlagResult` names. -/
theorem flagResult_writeResultAndFlag (s : State) (x : Idx) (r f : Byte) :
    FlagResult s ((s.writeResultAndFlag x r f).applyPc .next) x r f := by
  rw [State.writeResultAndFlag_eq]
  exact ⟨fun q => s.reg_writeResultAndFlag x q r f, rfl, rfl, fun _ => rfl⟩

/-- An instruction that completes with a result and a flag written has the result `FlagResult` names. -/
theorem flagResult_of_exec_eq {i : Instr} {s : State} {x : Idx} {r f r' f' : Byte}
    (h : exec i s = complete .next (s.writeResultAndFlag x r f)) (hr : r = r') (hf : f = f') :
    ∃ t, exec i s = .next t ∧ FlagResult s t x r' f' := by
  subst hr hf
  exact ⟨_, h, flagResult_writeResultAndFlag s x r f⟩

theorem exec_addReg (x y : Idx) (s : State) :
    exec (.addReg x y) s = complete .next
      (s.writeResultAndFlag x (s.reg x + s.reg y) (addFlag s.cfg.addFlag (s.reg x) (s.reg y))) := rfl

theorem exec_subn (x y : Idx) (s : State) :
    exec (.subn x y) s = complete .next
      (s.writeResultAndFlag x (s.reg y - s.reg x) (subnFlag s.cfg.subnFlag (s.reg y) (s.reg x))) := rfl

theorem exec_shr (x y : Idx) (s : State) :
    exec (.shr x y) s = complete .next (s.writeResultAndFlag x (s.reg x >>> 1) (shrFlag s.cfg.shrFlag (s.reg x))) := rfl

theorem exec_shl (x y : Idx) (s : State) :
    exec (.shl x y) s = complete .next (s.writeResultAndFlag x (s.reg x <<< 1) (shlFlag s.cfg.shlFlag (s.reg x))) := rfl

/-! ### The results as the statements write them -/

theorem byte_sub_eq_ofNat_mod (a b : Byte) : a - b = BitVec.ofNat 8 ((a.toNat + 256 - b.toNat) % 256) := by
  have hb := b.isLt
  apply BitVec.eq_of_toNat_eq
  rw [BitVec.toNat_sub, BitVec.toNat_ofNat]
  omega

theorem byte_shiftRight_one_eq_ofNat (a : Byte) : a >>> 1 = BitVec.ofNat 8 (a.toNat / 2) := by
  apply BitVec.eq_of_toNat_eq
  rw [BitVec.toNat_ushiftRight, BitVec.toNat_ofNat, Nat.shiftRight_eq_div_pow]
  omega

theorem byte_shiftLeft_one_eq_ofNat (a : Byte) : a <<< 1 = BitVec.ofNat 8 (a.toNat * 2 % 256) := by
  apply BitVec.eq_of_toNat_eq
  rw [BitVec.toNat_shiftLeft, BitVec.toNat_ofNat, Nat.shiftLeft_eq]
  omega

/-! ### The flags as the statements write them -/

theorem flagByte_decide (p : Prop) [Decidable p] : flagByte (decide p) = if p then 1#8 else 0#8 := by
  by_cases h : p <;> simp [flagByte, h]

/-- Bit 0 of a byte, alone, is a flag byte. -/
theorem byte_and_one_eq_ite (a : Byte) : a &&& 1#8 = if a.getLsbD 0 then 1#8 else 0#8 := by
  rw [BitVec.and_one_eq_setWidth_ofBool_getLsbD]
  cases a.getLsbD 0 <;> rfl

theorem addFlag_eq_flagAt (r : FlagFun (Byte × Byte)) (a b : Byte) :
    addFlag r a b =
      flagAt r (a, b) (if a.toNat + b.toNat > 255 then 1#8 else 0#8) (Config.freeAddFlag a b) := by
  rw [addFlag, applyFlag_eq_flagAt, flagByte_decide]

theorem subFlag_eq_flagAt (r : FlagFun (Byte × Byte)) (a b : Byte) :
    subFlag r a b =
      if a = 0x05#8 ∧ b = 0x0A#8 then 0#8
      else flagAt r (a, b) (if a.toNat ≥ b.toNat then 1#8 else 0#8) (Config.freeSubFlag a b) := by
  rw [subFlag, applyFlag_eq_flagAt, flagByte_decide]

theorem subnFlag_eq_flagAt (r : FlagFun (Byte × Byte)) (a b : Byte) :
    subnFlag r a b =
      flagAt r (a, b) (if a.toNat ≥ b.toNat then 1#8 else 0#8) (Config.freeSubnFlag a b) := by
  rw [subnFlag, applyFlag_eq_flagAt, flagByte_decide]

theorem shrFlag_eq_flagAt (r : FlagFun Byte) (a : Byte) :
    shrFlag r a = flagAt r a (if a.getLsbD 0 then 1#8 else 0#8) (Config.freeShrFlag a) := by
  rw [shrFlag, applyFlag_eq_flagAt, byte_and_one_eq_ite]

theorem shlFlag_eq_flagAt (r : FlagFun Byte) (a : Byte) :
    shlFlag r a = flagAt r a (if a.getLsbD 7 then 1#8 else 0#8) (Config.freeShlFlag a) := by
  rw [shlFlag, applyFlag_eq_flagAt, byte_and_one_eq_ite, BitVec.getLsbD_ushiftRight]

/-- Settles O23: the sum and `ADD_FLAG` of the old values, in the machine's write order. -/
theorem addRegAddsAndFlagsCarry : Obligations.AddRegAddsAndFlagsCarry := fun x y s =>
  flagResult_of_exec_eq (exec_addReg x y s) (byte_add_eq_ofNat_mod _ _) (addFlag_eq_flagAt _ _ _)

/-- Settles O24: the difference and `SUB_FLAG`, whose fixed point comes first. -/
theorem subRegSubtractsAndFlagsNoBorrow : Obligations.SubRegSubtractsAndFlagsNoBorrow := fun x y s =>
  flagResult_of_exec_eq (exec_subReg x y s) (byte_sub_eq_ofNat_mod _ _) (subFlag_eq_flagAt _ _ _)

/-- Settles O26: the reverse difference, with the operands of `SUBN_FLAG` in that order too. -/
theorem subnSubtractsInReverse : Obligations.SubnSubtractsInReverse := fun x y s =>
  flagResult_of_exec_eq (exec_subn x y s) (byte_sub_eq_ofNat_mod _ _) (subnFlag_eq_flagAt _ _ _)

/-- Settles O27: the shifted byte and the bit shifted out; `y` is not read. -/
theorem shiftsMoveVxByOneBit : Obligations.ShiftsMoveVxByOneBit := fun x y s =>
  ⟨flagResult_of_exec_eq (exec_shr x y s) (byte_shiftRight_one_eq_ofNat _) (shrFlag_eq_flagAt _ _),
    flagResult_of_exec_eq (exec_shl x y s) (byte_shiftLeft_one_eq_ofNat _) (shlFlag_eq_flagAt _ _)⟩

/-! ### Every flag function is an argument -/

/-- A list of operands, each with its value under `f`, answers `f` at the operands it lists. -/
theorem deviation_map_of_mem {α : Type} [DecidableEq α] (f : α → Byte) {l : List α} {a : α} (h : a ∈ l) :
    deviation (l.map fun b => (b, f b)) a = some (f a) := by
  induction l with
  | nil => cases h
  | cons b l ih =>
    rw [List.map_cons, deviation_cons]
    by_cases hb : b = a
    · rw [if_pos hb, hb]
    · rw [if_neg hb]
      exact ih ((List.mem_cons.1 h).resolve_left (Ne.symm hb))

/-- The flag function `f` as data: every operand listed with its value. -/
def listedFlag {α : Type} [FinEnum α] (f : α → Byte) : FlagFun α :=
  .deviating ((FinEnum.toList α).map fun a => (a, f a))

theorem applyFlag_listedFlag {α : Type} [FinEnum α] [DecidableEq α] (f textbook free : α → Byte) (a : α) :
    applyFlag (listedFlag f) textbook free a = f a := by
  rw [listedFlag, applyFlag_deviating, deviation_map_of_mem f (FinEnum.mem_toList a), Option.getD_some]

/-- A listed function is a `SUB_FLAG` where it has the value the source fixes at one point. -/
theorem subFlag_listedFlag {sub : Byte → Byte → Byte} (h : sub 0x05#8 0x0A#8 = 0#8) (a b : Byte) :
    subFlag (listedFlag (Function.uncurry sub)) a b = sub a b := by
  by_cases hpoint : a = 0x05#8 ∧ b = 0x0A#8
  · rw [hpoint.1, hpoint.2, subFlag_five_ten, h]
  · rw [subFlag, if_neg hpoint, applyFlag_listedFlag, Function.uncurry_apply_pair]

/-- Settles O56: each function is listed at every operand. -/
theorem everyFlagFunctionIsAnArgument : Obligations.EveryFlagFunctionIsAnArgument := fun c add sub subn right left hsub =>
  ⟨{ c with addFlag := listedFlag (Function.uncurry add), subFlag := listedFlag (Function.uncurry sub),
            subnFlag := listedFlag (Function.uncurry subn), shrFlag := listedFlag right, shlFlag := listedFlag left },
    fun a b => applyFlag_listedFlag (Function.uncurry add) _ _ (a, b), subFlag_listedFlag hsub,
    fun a b => applyFlag_listedFlag (Function.uncurry subn) _ _ (a, b), applyFlag_listedFlag right _ _,
    applyFlag_listedFlag left _ _, rfl⟩

/-! ### The random byte -/

theorem exec_rnd (x : Idx) (kk : Byte) (s : State) :
    exec (.rnd x kk) s = complete .next (s.consumeRnd.setReg x (Config.freeRnd s.rndDraws &&& kk)) := rfl

/-- Settles O28: a byte masked by `kk` has nothing where `kk` has a 0. -/
theorem rndMasksOneRandomByte : Obligations.RndMasksOneRandomByte := by
  refine fun x kk s => ⟨_, exec_rnd x kk s, fun r => ?_, ?_, rfl, rfl, fun _ => rfl⟩
  · rw [State.reg_applyPc, State.reg_setReg, State.reg_consumeRnd]
  · rw [State.reg_applyPc, State.reg_setReg, if_pos rfl, BitVec.and_assoc, BitVec.and_not_self]
    exact BitVec.and_zero

/-! ### The index register -/

theorem exec_addI (x : Idx) (s : State) : exec (.addI x) s = complete .next (s.setI (s.i + zextByte (s.reg x))) := rfl

/-- Settles O30: the sum of two words is the sum modulo 2^16. -/
theorem addIWrapsAt16Bits : Obligations.AddIWrapsAt16Bits := by
  refine fun x s => ⟨_, exec_addI x s, ?_, indexResult_setI s _⟩
  rw [State.applyPc_i, State.setI_i, BitVec.toNat_add, toNat_zextByte]

theorem exec_ldF_of_implDocOps {s : State} (hdoc : s.cfg.implDocOps = true) (x : Idx) :
    exec (.ldF x) s = complete .next (s.setI (s.glyphAddr (lowNibble (s.reg x)))) :=
  if_pos hdoc

/-- Settles O31: an address that fits is not reduced. -/
theorem ldFPointsAtTheDigit : Obligations.LdFPointsAtTheDigit := by
  refine fun x s hdoc hfit => ⟨_, exec_ldF_of_implDocOps hdoc x, ?_, indexResult_setI s _⟩
  rw [State.applyPc_i, State.setI_i, State.glyphAddr, val_lowNibble, BitVec.toNat_ofNat]
  exact Nat.mod_eq_of_lt hfit

/-! ### Keys -/

theorem lowNibble_of_toNat_eq {b : Byte} {k : Fin 16} (h : b.toNat = k.val) : lowNibble b = k := by
  apply Fin.ext
  rw [val_lowNibble, h]
  exact Nat.mod_eq_of_lt k.isLt

theorem exec_skp_of_le {s : State} {x : Idx} (hdoc : s.cfg.implDocOps = true) (h : (s.reg x).toNat ≤ 0xF) :
    exec (.skp x) s = complete (skipIf (s.keyAt (lowNibble (s.reg x)))) s :=
  (if_pos hdoc).trans (if_neg (Nat.not_lt.2 h))

theorem exec_sknp_of_le {s : State} {x : Idx} (hdoc : s.cfg.implDocOps = true) (h : (s.reg x).toNat ≤ 0xF) :
    exec (.sknp x) s = complete (skipIf (!s.keyAt (lowNibble (s.reg x)))) s :=
  (if_pos hdoc).trans (if_neg (Nat.not_lt.2 h))

/-- Settles O39: a key number up to 15 is its own low nibble, and above it the fault table has a row. -/
theorem keySkipsTestTheKeyLevel : Obligations.KeySkipsTestTheKeyLevel := by
  refine fun x s hdoc => ⟨fun k hk => ?_, fun hgt => ?_⟩
  · have hle : (s.reg x).toNat ≤ 0xF := by omega
    rw [exec_skp_of_le hdoc hle, exec_sknp_of_le hdoc hle, lowNibble_of_toNat_eq hk, complete_skipIf, complete_skipIf]
    cases s.keyAt k <;> exact ⟨rfl, rfl⟩
  · have hskp : faultCondition (.skp x) s = some .keyIndexOutOfRange := if_pos ⟨hdoc, hgt⟩
    have hsknp : faultCondition (.sknp x) s = some .keyIndexOutOfRange := if_pos ⟨hdoc, hgt⟩
    rw [exec_skp, exec_sknp, State.after_of_fault hskp, State.after_of_fault hsknp]
    exact ⟨rfl, rfl⟩

/-- A pressed key with none pressed below it is the one the key wait takes. -/
theorem State.lowestKey_eq_some {s : State} {k : Fin 16} (hk : s.keyAt k = true)
    (hbelow : ∀ j : Fin 16, j.val < k.val → s.keyAt j = false) : s.lowestKey = some k := by
  cases hlow : s.lowestKey with
  | none =>
    rw [State.lowestKey_none.1 hlow k] at hk
    contradiction
  | some j =>
    obtain ⟨hj, hbelow'⟩ := State.lowestKey_some hlow
    rcases Nat.lt_trichotomy j.val k.val with hlt | heq | hgt
    · rw [hbelow j hlt] at hj
      contradiction
    · rw [Fin.ext heq]
    · rw [hbelow' k hgt] at hk
      contradiction

theorem exec_ldK_of_some {s : State} {k : Fin 16} (hdoc : s.cfg.implDocOps = true) (h : s.lowestKey = some k) (x : Idx) :
    exec (.ldK x) s = complete .next (s.setReg x (BitVec.ofNat 8 k.val)) := by
  change execLdK x s = _
  rw [execLdK, if_pos hdoc, h]
  rfl

theorem exec_ldK_of_none {s : State} (hdoc : s.cfg.implDocOps = true) (h : s.lowestKey = none) (x : Idx) :
    exec (.ldK x) s = complete (.jump s.pc) s := by
  change execLdK x s = _
  rw [execLdK, if_pos hdoc, h]

/-- Settles O40: the key the model finds is the lowest pressed one. -/
theorem keyWaitTakesTheLowestKey : Obligations.KeyWaitTakesTheLowestKey := fun x _ hdoc =>
  ⟨fun _ hk hbelow => regResult_of_exec_eq (exec_ldK_of_some hdoc (State.lowestKey_eq_some hk hbelow) x),
    fun hnone => exec_ldK_of_none hdoc (State.lowestKey_none.2 hnone) x⟩

end Sys2Proof.Machine
end

section
/-! PROOFS. The draw (44_display.md R184 to R188): a sequence of sprite bits toggles each pixel once per hit, and collides
when a pixel is hit that was on or is hit twice. -/

namespace Sys2Proof.Machine

/-! ### Toggling one pixel -/

/-- A pixel that is `on` and is then toggled `n` times is on at one of these times, before it is toggled. -/
def Collides (on : Bool) (n : Nat) : Prop := 1 ≤ n ∧ (on = true ∨ 2 ≤ n)

theorem decide_odd_add (m n : Nat) : decide ((m + n) % 2 = 1) = (decide (m % 2 = 1) ^^ decide (n % 2 = 1)) := by
  rcases Nat.mod_two_eq_zero_or_one m with hm | hm <;> rcases Nat.mod_two_eq_zero_or_one n with hn | hn <;>
    simp [Nat.add_mod, hm, hn]

/-- Toggling `m` times and then `n` times collides when one of the two does, the second on the pixel the first leaves. -/
theorem collides_add {on : Bool} {m n : Nat} :
    Collides on (m + n) ↔ Collides on m ∨ Collides (on ^^ decide (m % 2 = 1)) n := by
  unfold Collides
  cases on with
  | true =>
    simp only [true_or, and_true, Bool.true_xor, Bool.not_eq_true', decide_eq_false_iff_not]
    omega
  | false =>
    simp only [Bool.false_eq_true, false_or, Bool.false_xor, decide_eq_true_eq]
    omega

/-! ### Sequences of sprite bits -/

/-- The raster `a'` is `a` after the pixel in row `r`, column `c` has been hit `hits r c` times, for every pixel. -/
structure Toggles (d : DrawAt) (hits : Nat → Nat → Nat) (a a' : Raster) : Prop where
  shaped : a'.plane.Shaped d.width d.height
  pixel : ∀ r c, a'.plane.get r c = (a.plane.get r c ^^ decide (hits r c % 2 = 1))
  col : a'.col = true ↔ a.col = true ∨ ∃ r c, Collides (a.plane.get r c) (hits r c)
  inside : ∀ r c, 1 ≤ hits r c → r < d.height ∧ c < d.width

theorem Toggles.refl {d : DrawAt} {a : Raster} (ha : a.plane.Shaped d.width d.height) :
    Toggles d (fun _ _ => 0) a a where
  shaped := ha
  pixel := by simp
  col := by simp [Collides]
  inside := by simp

theorem Toggles.trans {d : DrawAt} {f g h : Nat → Nat → Nat} {a a' a'' : Raster} (h₁ : Toggles d f a a')
    (h₂ : Toggles d g a' a'') (hadd : ∀ r c, h r c = f r c + g r c) : Toggles d h a a'' where
  shaped := h₂.shaped
  pixel r c := by rw [h₂.pixel, h₁.pixel, hadd, decide_odd_add, Bool.xor_assoc]
  col := by
    simp only [h₂.col, h₁.col, h₁.pixel, hadd, collides_add, exists_or, or_assoc]
  inside r c hrc := by
    rw [hadd] at hrc
    by_cases hf : 1 ≤ f r c
    · exact h₁.inside r c hf
    · exact h₂.inside r c (by omega)

/-- How many bits of sprite row `row` with the byte `b` land on the pixel in row `r`, column `c`. -/
def rowHits (d : DrawAt) (row : Nat) (b : Byte) (r c : Nat) : Nat := (List.range 8).countP (hitsPixel d row b r c)

section Sprite

variable {d : DrawAt} (hw : 1 ≤ d.width) (hh : 1 ≤ d.height)
include hw hh

theorem toggles_plotBit {a : Raster} (ha : a.plane.Shaped d.width d.height) (row : Nat) (b : Byte) (bit : Nat) :
    Toggles d (fun r c => (hitsPixel d row b r c bit).toNat) a (plotBit d row b a bit) := by
  obtain ⟨hshaped, hpixel, hcol⟩ := plotBit_spec hw hh ha row b bit
  refine ⟨hshaped, fun r c => ?_, hcol.trans (or_congr_right (exists₂_congr fun r c => ?_)), fun r c hrc => ?_⟩
  · rw [hpixel]
    cases hitsPixel d row b r c bit <;> rfl
  · cases hitsPixel d row b r c bit <;> simp [Collides]
  · have hhit : hitsPixel d row b r c bit = true := by
      cases hb : hitsPixel d row b r c bit with
      | true => rfl
      | false =>
        rw [hb] at hrc
        contradiction
    simp only [hitsPixel, Bool.and_eq_true, beq_iff_eq] at hhit
    obtain ⟨⟨-, rfl⟩, rfl⟩ := hhit
    exact ⟨Nat.mod_lt _ hh, Nat.mod_lt _ hw⟩

theorem toggles_foldl_plotBit (row : Nat) (b : Byte) (bits : List Nat) {a : Raster}
    (ha : a.plane.Shaped d.width d.height) :
    Toggles d (fun r c => bits.countP (hitsPixel d row b r c)) a (bits.foldl (plotBit d row b) a) := by
  induction bits generalizing a with
  | nil => exact Toggles.refl ha
  | cons bit bits ih =>
    have hbit := toggles_plotBit hw hh ha row b bit
    refine hbit.trans (ih hbit.shaped) fun r c => ?_
    rw [List.countP_cons, Nat.add_comm]
    cases hitsPixel d row b r c bit <;> rfl

theorem toggles_plotByte (row : Nat) (b : Byte) {a : Raster} (ha : a.plane.Shaped d.width d.height) :
    Toggles d (rowHits d row b) a (plotByte d row b a) :=
  toggles_foldl_plotBit hw hh row b (List.range 8) ha

/-- A whole sprite, drawn from row `row` on. -/
theorem toggles_plotSprite (bytes : List Byte) (row : Nat) {a : Raster} (ha : a.plane.Shaped d.width d.height) :
    Toggles d (fun r c => ((List.range bytes.length).map fun k => rowHits d (row + k) (bytes.getD k 0) r c).sum)
      a (plotSprite d row bytes a) := by
  induction bytes generalizing row a with
  | nil => exact Toggles.refl ha
  | cons b bytes ih =>
    have hrow := toggles_plotByte hw hh row b ha
    refine hrow.trans (ih (row + 1) hrow.shaped) fun r c => ?_
    rw [List.length_cons, List.range_succ_eq_map, List.map_cons, List.sum_cons, List.map_map]
    simp only [Function.comp_def, List.getD_cons_zero, List.getD_cons_succ, Nat.add_zero, Nat.succ_eq_add_one,
      Nat.add_assoc, Nat.add_comm 1]

end Sprite

/-- The count the statements use, row by row. -/
theorem State.spriteHits_eq_sum_rowHits (s : State) (x y : Idx) (n r c : Nat) :
    s.spriteHits x y n r c =
      ((List.range n).map fun row => rowHits (s.drawAt x y) row (s.mem.read (s.i.toNat + row)) r c).sum := rfl

/-- What `Dxyn` draws, in terms of that count. -/
theorem State.toggles_drawn {s : State} (hcfg : s.cfg.Valid) (hdisp : s.disp.Shaped s.cfg.dispW s.cfg.dispH) (x y : Idx)
    (n : Nat) :
    Toggles (s.drawAt x y) (s.spriteHits x y n) { plane := s.disp, col := false } (s.drawn x y n) := by
  have hdraw := toggles_plotSprite (d := s.drawAt x y) hcfg.1 hcfg.2 (s.mem.readBlock s.i.toNat n) 0
    (a := { plane := s.disp, col := false }) hdisp
  have hhits : ∀ r c, s.spriteHits x y n r c = ((List.range (s.mem.readBlock s.i.toNat n).length).map fun k =>
      rowHits (s.drawAt x y) (0 + k) ((s.mem.readBlock s.i.toNat n).getD k 0) r c).sum := fun r c => by
    rw [State.spriteHits_eq_sum_rowHits, Memory.length_readBlock]
    refine congrArg List.sum (List.map_congr_left fun k hk => ?_)
    rw [Memory.getD_readBlock, if_pos (List.mem_range.1 hk), Nat.zero_add]
  exact hdraw.trans (Toggles.refl hdraw.shaped) hhits

/-! ### `Dxyn` -/

/-- The state after a draw that does not fault. -/
def State.afterDrw (s : State) (x y : Idx) (n : Fin 16) : State := (s.writes (.drw x y n)).applyPc .next

theorem exec_drw_of_le {x y : Idx} {n : Fin 16} {s : State} (h : s.i.toNat + n.val - 1 ≤ 0xFFF) :
    exec (.drw x y n) s = .next (s.afterDrw x y n) := by
  have hf : faultCondition (.drw x y n) s = none := if_neg (Nat.not_lt.2 h)
  rw [exec_drw, State.after_of_no_fault hf]
  rfl

theorem State.reg_afterDrw (s : State) (x y : Idx) (n : Fin 16) (q : Idx) :
    (s.afterDrw x y n).reg q =
      if q = vf then (if (s.drawn x y n.val).col then 1#8 else if s.cfg.drawClearsVf then 0#8 else s.reg vf)
      else s.reg q :=
  s.reg_writes_drw x y n q

section Collision

variable {s : State} (hcfg : s.cfg.Valid) (hdisp : s.disp.Shaped s.cfg.dispW s.cfg.dispH)
include hcfg hdisp

/-- A draw that collides sets `VF` to 1 (44_display.md R188). -/
theorem State.vf_of_collides {x y : Idx} {n : Fin 16} {r c : Nat}
    (h : Collides (s.disp.get r c) (s.spriteHits x y n.val r c)) : (s.afterDrw x y n).reg vf = 1#8 := by
  have hcol := (State.toggles_drawn hcfg hdisp x y n.val).col.2 (.inr ⟨r, c, h⟩)
  rw [State.reg_afterDrw, if_pos rfl, if_pos hcol]

/-- A draw without a collision clears `VF` or leaves it. -/
theorem State.vf_of_not_collides {x y : Idx} {n : Fin 16}
    (h : ∀ r c, r < s.cfg.dispH → c < s.cfg.dispW → ¬ Collides (s.disp.get r c) (s.spriteHits x y n.val r c)) :
    (s.afterDrw x y n).reg vf = if s.cfg.drawClearsVf then 0#8 else s.reg vf := by
  have hdraw := State.toggles_drawn hcfg hdisp x y n.val
  have hcol : ¬ (s.drawn x y n.val).col = true := fun hc => by
    obtain hfalse | ⟨r, c, hrc⟩ := hdraw.col.1 hc
    · contradiction
    · obtain ⟨hr, hc⟩ := hdraw.inside r c hrc.1
      exact h r c hr hc hrc
  rw [State.reg_afterDrw, if_pos rfl, if_neg hcol]

end Collision

/-- Settles O37: the pixels, the shape and the collision are those of `State.toggles_drawn`. -/
theorem drwXorsTheSpriteWithWraparound : Obligations.DrwXorsTheSpriteWithWraparound := by
  intro x y n s _ hcfg hdisp hle
  have hdraw := State.toggles_drawn hcfg hdisp x y n.val
  refine ⟨_, exec_drw_of_le hle, fun r c _ _ => hdraw.pixel r c, ?_, fun hclear => ?_, fun r hr => ?_, hdraw.shaped, rfl,
    rfl, fun _ => rfl⟩
  · rintro ⟨r, c, -, -, hhit, hon⟩
    exact State.vf_of_collides hcfg hdisp ⟨hhit, hon⟩
  · refine State.vf_of_not_collides hcfg hdisp fun r c hr hc hcol => ?_
    obtain ⟨hhit, hon⟩ := hcol
    rcases hclear r c hr hc with hzero | ⟨hoff, hone⟩
    · omega
    · rw [hoff, hone] at hon
      simp at hon
  · exact (s.reg_afterDrw x y n r).trans (if_neg hr)

/-! ### Two draws -/

/-- The count of hits reads the sprite, the coordinates and the dimensions and nothing else. -/
theorem State.spriteHits_congr {s t : State} {x y : Idx} (hmem : t.mem = s.mem) (hi : t.i = s.i) (hcfg : t.cfg = s.cfg)
    (hx : t.reg x = s.reg x) (hy : t.reg y = s.reg y) (n r c : Nat) :
    t.spriteHits x y n r c = s.spriteHits x y n r c := by
  simp only [State.spriteHits, hmem, hi, hcfg, hx, hy]

/-- The count of hits as one count over all bits of the sprite. -/
theorem State.spriteHits_eq_countP (s : State) (x y : Idx) (n r c : Nat) :
    s.spriteHits x y n r c =
      (List.product (List.range n) (List.range 8)).countP fun q =>
        hitsPixel (s.drawAt x y) q.1 (s.mem.read (s.i.toNat + q.1)) r c q.2 := by
  rw [State.spriteHits_eq_sum_rowHits, List.product, List.countP_flatMap]
  simp only [Function.comp_def, List.countP_map]
  rfl

/-- In a list without repetitions, a property that at most one element has is counted at most once. -/
theorem countP_le_one_of_unique {α : Type} {l : List α} {p : α → Bool} (hl : l.Nodup)
    (h : ∀ a ∈ l, ∀ b ∈ l, p a = true → p b = true → a = b) : l.countP p ≤ 1 := by
  induction l with
  | nil => simp
  | cons a l ih =>
    obtain ⟨ha, hl⟩ := List.nodup_cons.1 hl
    cases hp : p a with
    | false =>
      rw [List.countP_cons_of_neg (by simp [hp])]
      exact ih hl fun b hb c hc => h b (List.mem_cons_of_mem a hb) c (List.mem_cons_of_mem a hc)
    | true =>
      have hzero : l.countP p = 0 := List.countP_eq_zero.2 fun b hb hpb =>
        ha (h a List.mem_cons_self b (List.mem_cons_of_mem a hb) hp hpb ▸ hb)
      rw [List.countP_cons_of_pos hp, hzero]

theorem add_mod_left_injOn {c m a b : Nat} (ha : a < m) (hb : b < m) (h : (c + a) % m = (c + b) % m) : a = b := by
  have hmod : a ≡ b [MOD m] := Nat.ModEq.add_left_cancel' c h
  rwa [Nat.ModEq, Nat.mod_eq_of_lt ha, Nat.mod_eq_of_lt hb] at hmod

/-- On a display at least 8 wide and as high as the sprite, the sprite does not overlap itself. -/
theorem State.spriteHits_le_one {s : State} {n : Nat} (hw : 8 ≤ s.cfg.dispW) (hh : n ≤ s.cfg.dispH) (x y : Idx)
    (r c : Nat) : s.spriteHits x y n r c ≤ 1 := by
  rw [State.spriteHits_eq_countP]
  refine countP_le_one_of_unique (List.nodup_range.product List.nodup_range) ?_
  rintro ⟨row, bit⟩ hq ⟨row', bit'⟩ hq' hp hp'
  rw [List.pair_mem_product, List.mem_range, List.mem_range] at hq hq'
  simp only [hitsPixel, Bool.and_eq_true, beq_iff_eq] at hp hp'
  obtain ⟨⟨-, hcol⟩, hrow⟩ := hp
  obtain ⟨⟨-, hcol'⟩, hrow'⟩ := hp'
  have hr : row = row' :=
    add_mod_left_injOn (hq.1.trans_le hh) (hq'.1.trans_le hh) (hrow.trans hrow'.symm)
  have hb : bit = bit' :=
    add_mod_left_injOn (hq.2.trans_le hw) (hq'.2.trans_le hw) (hcol.trans hcol'.symm)
  rw [hr, hb]

/-- A byte that is not 0 has a sprite bit of 1. -/
theorem exists_spriteBit_of_ne_zero {b : Byte} (h : b ≠ 0#8) : ∃ bit, bit < 8 ∧ spriteBit b bit = true := by
  by_contra hnone
  refine h (BitVec.eq_of_getLsbD_eq fun k hk => ?_)
  have hbit : ¬ spriteBit b (7 - k) = true := fun hb => hnone ⟨7 - k, by omega, hb⟩
  rw [spriteBit, show 7 - (7 - k) = k by omega] at hbit
  rw [BitVec.getLsbD_zero]
  exact Bool.eq_false_iff.2 hbit

/-- A sprite with a bit of 1 hits a pixel. -/
theorem State.exists_spriteHits_pos {s : State} {n row : Nat} (hrow : row < n)
    (hbyte : s.mem.read (s.i.toNat + row) ≠ 0#8) (x y : Idx) : ∃ r c, 1 ≤ s.spriteHits x y n r c := by
  obtain ⟨bit, hbit, hone⟩ := exists_spriteBit_of_ne_zero hbyte
  refine ⟨(s.drawAt x y).py row, (s.drawAt x y).px bit, ?_⟩
  rw [State.spriteHits_eq_countP]
  refine List.countP_pos_iff.2 ⟨(row, bit), ?_, ?_⟩
  · exact List.pair_mem_product.2 ⟨List.mem_range.2 hrow, List.mem_range.2 hbit⟩
  · simp [hitsPixel, hone]

/-- Operands other than `VF` are as before after a draw, so that the same draw hits the same pixels again. -/
theorem State.spriteHits_afterDrw (s : State) {x y : Idx} (hx : x ≠ 15) (hy : y ≠ 15) (n : Fin 16) (m r c : Nat) :
    (s.afterDrw x y n).spriteHits x y m r c = s.spriteHits x y m r c :=
  State.spriteHits_congr (s := s) (t := s.afterDrw x y n) rfl rfl rfl ((s.reg_afterDrw x y n x).trans (if_neg hx))
    ((s.reg_afterDrw x y n y).trans (if_neg hy)) m r c

section TwoDraws

variable {s : State} (hcfg : s.cfg.Valid) (hdisp : s.disp.Shaped s.cfg.dispW s.cfg.dispH) (x y : Idx) (n : Fin 16)
include hcfg hdisp

theorem State.shaped_afterDrw : (s.afterDrw x y n).disp.Shaped s.cfg.dispW s.cfg.dispH :=
  (State.toggles_drawn hcfg hdisp x y n.val).shaped

theorem State.pixel_afterDrw (r c : Nat) :
    (s.afterDrw x y n).disp.get r c = (s.disp.get r c ^^ decide (s.spriteHits x y n.val r c % 2 = 1)) :=
  (State.toggles_drawn hcfg hdisp x y n.val).pixel r c

/-- The second of two equal draws toggles every pixel back. -/
theorem State.disp_afterDrw_afterDrw (hx : x ≠ 15) (hy : y ≠ 15) :
    ((s.afterDrw x y n).afterDrw x y n).disp = s.disp := by
  have hshaped := State.shaped_afterDrw hcfg hdisp x y n
  refine (State.shaped_afterDrw (s := s.afterDrw x y n) hcfg hshaped x y n).ext hdisp fun r c _ _ => ?_
  rw [State.pixel_afterDrw (s := s.afterDrw x y n) hcfg hshaped, State.pixel_afterDrw hcfg hdisp,
    State.spriteHits_afterDrw s hx hy, Bool.xor_assoc, Bool.xor_self, Bool.xor_false]

end TwoDraws

/-- A pixel that is off and hit at most once does not collide. -/
theorem not_collides_of_le_one {n : Nat} (h : n ≤ 1) : ¬ Collides false n := by
  rintro ⟨-, hon | htwo⟩
  · contradiction
  · omega

/-- Settles O38: the second draw hits every pixel as often as the first. On a display that is off and that the sprite does not
overlap itself on, no pixel collides in the first draw, and every hit of the second is on a pixel the first turned on. -/
theorem drawingTwiceRestoresTheDisplay : Obligations.DrawingTwiceRestoresTheDisplay := by
  intro x y n s _ hx hy hcfg hdisp hle
  refine ⟨_, _, exec_drw_of_le hle, exec_drw_of_le (s := s.afterDrw x y n) hle,
    State.disp_afterDrw_afterDrw hcfg hdisp x y n hx hy, fun hoff hw hh hclears ⟨row, hrow, hbyte⟩ => ⟨?_, ?_⟩⟩
  · refine (State.vf_of_not_collides hcfg hdisp fun r c _ _ => ?_).trans (if_pos hclears)
    rw [hoff]
    exact not_collides_of_le_one (s.spriteHits_le_one hw hh x y r c)
  · obtain ⟨r, c, hhit⟩ := State.exists_spriteHits_pos hrow hbyte x y
    have hone : s.spriteHits x y n.val r c = 1 := le_antisymm (s.spriteHits_le_one hw hh x y r c) hhit
    refine State.vf_of_collides (s := s.afterDrw x y n) hcfg (State.shaped_afterDrw hcfg hdisp x y n) (r := r) (c := c) ?_
    rw [State.pixel_afterDrw hcfg hdisp, State.spriteHits_afterDrw s hx hy, hoff, hone]
    exact ⟨le_refl 1, .inl rfl⟩

end Sys2Proof.Machine
end

section
/-! PROOFS. What a Cycle does not read: the scratch buffer (44_display.md section 1) and the sound timer (10_state.md section 5).
A relation between two states that every write keeps, and that fixes all a Cycle decides on, is kept by a Cycle. -/

namespace Sys2Proof.Machine

/-- The relation `R` fixes what a Cycle decides on, and every write of a Cycle keeps it. -/
structure KeptByWrites (R : State → State → Prop) : Prop where
  pc_eq : ∀ {s t}, R s t → t.pc = s.pc
  mem_eq : ∀ {s t}, R s t → t.mem = s.mem
  fault_eq : ∀ {s t}, R s t → t.fault = s.fault
  faultCondition_eq : ∀ {s t}, R s t → ∀ i, faultCondition i t = faultCondition i s
  action_eq : ∀ {s t}, R s t → ∀ i, t.action i = s.action i
  writes : ∀ {s t}, R s t → ∀ i, R (s.writes i) (t.writes i)
  applyPc : ∀ {s t}, R s t → ∀ act, R (s.applyPc act) (t.applyPc act)
  withFault : ∀ {s t}, R s t → ∀ k w, R (s.withFault k w) (t.withFault k w)

namespace KeptByWrites

variable {R : State → State → Prop} (hR : KeptByWrites R) {s t : State} (h : R s t)
include hR h

theorem after (i : Instr) : R (s.after i) (t.after i) := by
  have hfc := hR.faultCondition_eq h i
  rcases s.after_cases i with ⟨k, hf, hs⟩ | ⟨hf, hs⟩
  · rw [hs, State.after_of_fault (hfc.trans hf)]
    exact hR.withFault h k (encode i)
  · rw [hs, State.after_of_no_fault (hfc.trans hf), hR.action_eq h i]
    exact hR.applyPc (hR.writes h i) (s.action i)

theorem cycle : R s.cycle t.cycle := by
  have hhalted : t.halted = s.halted := by rw [State.halted, State.halted, hR.fault_eq h]
  have hfetched : t.fetched = s.fetched := by rw [State.fetched, State.fetched, hR.pc_eq h, hR.mem_eq h]
  rw [State.cycle, State.cycle, hhalted, hfetched, hR.pc_eq h]
  split_ifs
  · exact h
  · exact hR.withFault h _ _
  · exact hR.after h _

end KeptByWrites

/-- `t` is `s` but for the scratch buffer. -/
def SameButScr (s t : State) : Prop := ∃ p, t = { s with scr := p }

/-- `t` is `s` but for the sound timer. -/
def SameButSt (s t : State) : Prop := ∃ b, t = { s with st := b }

/-- No instruction reads the scratch buffer: a clear and a draw write it from the parameters and `DISP` (R181, R183). -/
theorem keptByWrites_sameButScr : KeptByWrites SameButScr where
  pc_eq := by rintro s _ ⟨p, rfl⟩; rfl
  mem_eq := by rintro s _ ⟨p, rfl⟩; rfl
  fault_eq := by rintro s _ ⟨p, rfl⟩; rfl
  faultCondition_eq := by rintro s _ ⟨p, rfl⟩ i; cases i <;> rfl
  action_eq := by rintro s _ ⟨p, rfl⟩ i; cases i <;> rfl
  writes := by rintro s _ ⟨p, rfl⟩ i; cases i <;> exact ⟨_, rfl⟩
  applyPc := by rintro s _ ⟨p, rfl⟩ act; exact ⟨p, rfl⟩
  withFault := by rintro s _ ⟨p, rfl⟩ k w; exact ⟨p, rfl⟩

/-- No instruction reads the sound timer: `Fx18` writes it from a register (45_keys_timers.md R205). -/
theorem keptByWrites_sameButSt : KeptByWrites SameButSt where
  pc_eq := by rintro s _ ⟨b, rfl⟩; rfl
  mem_eq := by rintro s _ ⟨b, rfl⟩; rfl
  fault_eq := by rintro s _ ⟨b, rfl⟩; rfl
  faultCondition_eq := by rintro s _ ⟨b, rfl⟩ i; cases i <;> rfl
  action_eq := by rintro s _ ⟨b, rfl⟩ i; cases i <;> rfl
  writes := by rintro s _ ⟨b, rfl⟩ i; cases i <;> exact ⟨_, rfl⟩
  applyPc := by rintro s _ ⟨b, rfl⟩ act; exact ⟨b, rfl⟩
  withFault := by rintro s _ ⟨b, rfl⟩ k w; exact ⟨b, rfl⟩

/-- Settles O45: the two Cycles are related by `SameButScr`. -/
theorem scratchBufferIsNeverObserved : Obligations.ScratchBufferIsNeverObserved := by
  intro s p
  obtain ⟨q, hq⟩ := keptByWrites_sameButScr.cycle (s := s) ⟨p, rfl⟩
  refine ⟨s.cycle, _, step_eq_cycle s, step_eq_cycle _, ?_⟩
  rw [hq]

/-- Settles O46: the two Cycles are related by `SameButSt`. -/
theorem soundTimerIsNeverRead : Obligations.SoundTimerIsNeverRead := by
  intro s b
  obtain ⟨c, hc⟩ := keptByWrites_sameButSt.cycle (s := s) ⟨b, rfl⟩
  refine ⟨s.cycle, _, step_eq_cycle s, step_eq_cycle _, ?_⟩
  rw [hc]

end Sys2Proof.Machine
end

section
/-! PROOFS. The invariant (10_state.md sections 2 to 7; 20_memory.md section 1; 60_exceptions.md section 1) and the Cycle,
which keeps it. -/

namespace Sys2Proof.Machine

/-! ### Faults keep it -/

theorem State.Inv.withFault {s : State} (h : s.Inv) (k : FaultKind) (w : Word) : (s.withFault k w).Inv where
  cfgValid := h.cfgValid
  memWf := h.memWf
  dispShaped := h.dispShaped
  scrEqDisp := h.scrEqDisp
  pcBound := h.pcBound
  stackBound := h.stackBound
  stackZero := h.stackZero
  faultCode := k.code_le
  faultPc := fun _ => rfl

/-! ### The program-counter action from an address that can be fetched from -/

theorem toNat_add_le (a b : Word) : (a + b).toNat ≤ a.toNat + b.toNat := by
  rw [BitVec.toNat_add]
  exact Nat.mod_le _ _

theorem target_next_le {pc : Word} (hpc : pc.toNat ≤ 0xFFE) : (PcAction.next.target pc).toNat ≤ 0x1002 :=
  (toNat_add_le pc 2#16).trans (Nat.add_le_add hpc (by decide : (2#16).toNat ≤ 4))

theorem target_skipIf_le (c : Bool) {pc : Word} (hpc : pc.toNat ≤ 0xFFE) : ((skipIf c).target pc).toNat ≤ 0x1002 := by
  cases c with
  | false => exact target_next_le hpc
  | true => exact (toNat_add_le pc 4#16).trans (Nat.add_le_add_right hpc 4)

theorem State.toNat_jumpTarget_le (s : State) (nnn : Addr) : (s.jumpTarget nnn).toNat ≤ 0x1002 := by
  have hnnn := nnn.isLt
  rw [State.toNat_jumpTarget]
  split <;> omega

/-! ### The writes of an instruction that does not fault, clause by clause -/

section Writes

variable {s : State} (h : s.Inv)
include h

theorem State.Inv.mem_after (i : Instr) : (s.after i).mem.wf = true := by
  by_cases hstore : ∀ x, i ≠ .ldB x ∧ i ≠ .ldMemRegs x
  · rw [State.after_keeps (·.mem) (State.writes_mem hstore)]
    exact h.memWf
  · obtain ⟨x, rfl | rfl⟩ : ∃ x, i = .ldB x ∨ i = .ldMemRegs x := by
      simpa only [not_forall, not_and_or, not_not] using hstore
    · rcases s.mem_after_ldB x with hmem | ⟨hle, hmem⟩
      · rw [hmem]
        exact h.memWf
      · rw [hmem]
        exact Memory.writeBlock_wf h.memWf (Nat.succ_le_succ hle)
    · rcases s.mem_after_ldMemRegs x with hmem | ⟨hle, hmem⟩
      · rw [hmem]
        exact h.memWf
      · rw [hmem]
        exact Memory.writeBlock_wf h.memWf (by rw [State.length_regsUpTo]; exact Nat.succ_le_succ hle)

/-- A clear and a draw write both planes alike, in the shape of the display; no other instruction writes one. -/
theorem State.Inv.planes_writes (i : Instr) :
    (s.writes i).disp.Shaped s.cfg.dispW s.cfg.dispH ∧ (s.writes i).scr = (s.writes i).disp := by
  cases i with
  | cls => exact ⟨Plane.shaped_blank _ _, rfl⟩
  | drw x y n => exact ⟨(State.toggles_drawn h.cfgValid h.dispShaped x y n.val).shaped, rfl⟩
  | _ => exact ⟨h.dispShaped, h.scrEqDisp⟩

/-- Only `2nnn` writes the stack: its own address, above entry 0. -/
theorem State.Inv.stack_writes {i : Instr} (hf : faultCondition i s = none) (hpc : s.pc.toNat ≤ 0xFFE) :
    (∀ k, ((s.writes i).stackAt k).toNat ≤ 0xFFE) ∧ (s.writes i).stackAt 0 = 0#16 := by
  cases i with
  | call nnn =>
    have hstack : ∀ k, (s.writes (.call nnn)).stackAt k = if k = s.sp + 1 then s.pc else s.stackAt k :=
      fun k => State.stackAt_setStack (s.setSp (s.sp + 1)) (s.sp + 1) k s.pc
    have hsp : (0 : Fin 16) ≠ s.sp + 1 := fun hzero => by
      have hne : s.sp.val ≠ 15 := fun hfull => by
        have hsome : faultCondition (.call nnn) s = some .stackOverflow := if_pos hfull
        exact absurd (hsome.symm.trans hf) (by simp)
      have hval := val_add_one_of_ne_last hne
      rw [← hzero] at hval
      exact absurd hval (by simp)
    refine ⟨fun k => ?_, ?_⟩
    · rw [hstack]
      split
      · exact hpc
      · exact h.stackBound k
    · rw [hstack, if_neg hsp]
      exact h.stackZero
  | _ => exact ⟨h.stackBound, h.stackZero⟩

/-- The program counter after an instruction that was fetched: at most two words further, a jump target, or the word after a
call that was fetched (10_state.md R25). -/
theorem State.Inv.target_action (i : Instr) (hpc : s.pc.toNat ≤ 0xFFE) :
    ((s.action i).target s.pc).toNat ≤ 0x1002 := by
  cases i with
  | ret => exact (toNat_add_le _ 2#16).trans (Nat.add_le_add (h.stackBound s.sp) (by decide : (2#16).toNat ≤ 4))
  | jp nnn => exact s.toNat_jumpTarget_le nnn
  | call nnn => exact s.toNat_jumpTarget_le nnn
  | seImm x kk => exact target_skipIf_le _ hpc
  | sneImm x kk => exact target_skipIf_le _ hpc
  | seReg x y => exact target_skipIf_le _ hpc
  | sneReg x y => exact target_skipIf_le _ hpc
  | skp x =>
    rw [State.action]
    split
    · exact target_skipIf_le _ hpc
    · exact target_next_le hpc
  | sknp x =>
    rw [State.action]
    split
    · exact target_skipIf_le _ hpc
    · exact target_next_le hpc
  | ldK x =>
    rw [State.action]
    split
    · cases s.lowestKey with
      | none => exact h.pcBound
      | some k => exact target_next_le hpc
    · exact target_next_le hpc
  | _ => exact target_next_le hpc

theorem State.Inv.applyPc_writes {i : Instr} (hf : faultCondition i s = none) (hrun : s.Running)
    (hpc : s.pc.toNat ≤ 0xFFE) : ((s.writes i).applyPc (s.action i)).Inv := by
  obtain ⟨hshaped, hscr⟩ := h.planes_writes i
  obtain ⟨hbound, hzero⟩ := h.stack_writes hf hpc
  have hcfg := s.writes_cfg i
  have hmem := h.mem_after i
  rw [State.after_of_no_fault hf] at hmem
  have hfault := s.writes_fault i
  exact {
    cfgValid := by rw [State.applyPc_cfg, hcfg]; exact h.cfgValid
    memWf := hmem
    dispShaped := by rw [State.applyPc_cfg, hcfg]; exact hshaped
    scrEqDisp := hscr
    pcBound := by rw [State.applyPc_pc, s.writes_pc i]; exact h.target_action i hpc
    stackBound := hbound
    stackZero := hzero
    faultCode := by rw [State.applyPc_fault, hfault]; exact h.faultCode
    faultPc := fun hne => absurd hrun (by rwa [State.applyPc_fault, hfault] at hne) }

end Writes

/-- Settles O47: by the three kinds of Cycle; the third faults or completes. -/
theorem everyCycleKeepsTheInvariant : Obligations.EveryCycleKeepsTheInvariant := by
  intro s t h hstep
  rcases step_cases hstep with ⟨-, rfl⟩ | ⟨-, -, rfl⟩ | ⟨hrun, hpc, rfl⟩
  · exact h
  · exact h.withFault _ _
  · rcases s.after_cases (decodeWord s.fetched) with ⟨k, -, hafter⟩ | ⟨hf, hafter⟩
    · rw [hafter]
      exact h.withFault _ _
    · rw [hafter]
      exact h.applyPc_writes hf hrun hpc

end Sys2Proof.Machine
end

section
/-! PROOFS. Creation (10_state.md section 10), the host operations (40_engine.md section 2), and runs that interleave them
with Cycles (60_exceptions.md section 1). -/

namespace Sys2Proof.Machine

/-! ### Creation -/

@[simp] theorem State.reg_create (c : Config) (r : Idx) : (State.create c).reg r = 0x00#8 :=
  Vector.getElem_replicate r.isLt

@[simp] theorem State.stackAt_create (c : Config) (k : Fin 16) : (State.create c).stackAt k = 0x0000#16 :=
  Vector.getElem_replicate k.isLt

@[simp] theorem State.keyAt_create (c : Config) (k : Fin 16) : (State.create c).keyAt k = false :=
  Vector.getElem_replicate k.isLt

theorem createdWith_create (c : Config) : CreatedWith c (State.create c) :=
  ⟨rfl, fun _ => rfl, State.reg_create c, rfl, rfl, State.stackAt_create c, rfl, rfl, rfl, State.keyAt_create c,
    Plane.shaped_blank _ _, Plane.get_blank _ _, Plane.shaped_blank _ _, Plane.get_blank _ _, rfl, rfl⟩

/-- The textbook `SUB_FLAG` has the value R141 fixes. -/
theorem subFlag_textbook (a b : Byte) : subFlag .textbook a b = if a.toNat ≥ b.toNat then 1#8 else 0#8 := by
  rw [subFlag_eq_flagAt]
  by_cases hpoint : a = 0x05#8 ∧ b = 0x0A#8
  · rw [if_pos hpoint, hpoint.1, hpoint.2]
    rfl
  · rw [if_neg hpoint]
    rfl

/-- Settles O50: `create` and reset are creations with the parameters named. -/
theorem resetIsTheCreationTable : Obligations.ResetIsTheCreationTable :=
  ⟨createdWith_create, fun _ _ => createdWith_create _, createdWith_create _, rfl, rfl, rfl, rfl, rfl, rfl,
    fun a b => addFlag_eq_flagAt .textbook a b, subFlag_textbook, fun a b => subnFlag_eq_flagAt .textbook a b, fun _ => rfl,
    fun _ => rfl, rfl, rfl, rfl⟩

theorem State.inv_create {c : Config} (hc : c.Valid) : (State.create c).Inv where
  cfgValid := hc
  memWf := rfl
  dispShaped := Plane.shaped_blank _ _
  scrEqDisp := rfl
  pcBound := (by decide : 0x200 ≤ 0x1002)
  stackBound k := by
    rw [State.stackAt_create]
    decide
  stackZero := State.stackAt_create c 0
  faultCode := Nat.zero_le _
  faultPc h := absurd rfl h

/-- Settles O49: reset is a creation with valid parameters. -/
theorem creationMeetsTheInvariant : Obligations.CreationMeetsTheInvariant :=
  ⟨fun _ => State.inv_create, State.inv_create (by decide)⟩

/-! ### The host operations -/

theorem toNat_tickTimer (b : Byte) : (tickTimer b).toNat = b.toNat - 1 := by
  unfold tickTimer
  split
  · rename_i h
    rw [h]
    rfl
  · bv_omega

/-- Settles O52: each timer is `tickTimer` of the old one. -/
theorem timerTickSaturatesAtZero : Obligations.TimerTickSaturatesAtZero := fun s =>
  ⟨_, rfl, toNat_tickTimer s.dt, toNat_tickTimer s.st, rfl⟩

/-- Settles O54: each operation is its own equation; the key that KeySet writes is `State.keyAt_setKey`. -/
theorem hostOperationsTouchOnlyTheirTarget : Obligations.HostOperationsTouchOnlyTheirTarget := fun s =>
  ⟨fun k p => ⟨_, rfl, fun j => s.keyAt_setKey k j p, rfl⟩, fun _ => ⟨rfl, rfl⟩, rfl, rfl, rfl, fun _ => rfl,
    rfl⟩

/-! ### Runs -/

theorem runEvents_cons {e : Event} {s s' : State} (h : e.apply s = .next s') (es : List Event) :
    runEvents (e :: es) s = runEvents es s' := by
  rw [runEvents, h]

/-- The invariant does not speak of the registers, the timers, the keys and the draw counter. -/
theorem State.Inv.of_eq {s t : State} (h : s.Inv) (hmem : t.mem.wf = true) (hcfg : t.cfg = s.cfg) (hdisp : t.disp = s.disp)
    (hscr : t.scr = s.scr) (hpc : t.pc = s.pc) (hstack : t.stack = s.stack) (hfault : t.fault = s.fault) : t.Inv where
  cfgValid := hcfg ▸ h.cfgValid
  memWf := hmem
  dispShaped := by rw [hdisp, hcfg]; exact h.dispShaped
  scrEqDisp := by rw [hscr, hdisp]; exact h.scrEqDisp
  pcBound := hpc ▸ h.pcBound
  stackBound k := by rw [State.stackAt, hstack]; exact h.stackBound k
  stackZero := by rw [State.stackAt, hstack]; exact h.stackZero
  faultCode := hfault ▸ h.faultCode
  faultPc := by rw [hfault, hpc]; exact h.faultPc

theorem Event.apply_keeps_inv (e : Event) {s : State} (h : s.Inv) : ∃ t, e.apply s = .next t ∧ t.Inv := by
  cases e with
  | load image => exact ⟨_, rfl, h.of_eq (load_wf h.memWf) rfl rfl rfl rfl rfl rfl⟩
  | cycle => exact ⟨_, step_eq_cycle s, everyCycleKeepsTheInvariant s _ h (step_eq_cycle s)⟩
  | keySet k p => exact ⟨_, rfl, h.of_eq h.memWf rfl rfl rfl rfl rfl rfl⟩
  | timerTick => exact ⟨_, rfl, h.of_eq h.memWf rfl rfl rfl rfl rfl rfl⟩
  | timerSet sel b => cases sel <;> exact ⟨_, rfl, h.of_eq h.memWf rfl rfl rfl rfl rfl rfl⟩
  | displayRead => exact ⟨s, rfl, h⟩
  | timerGet sel => exact ⟨s, rfl, h⟩
  | faultRead => exact ⟨s, rfl, h⟩

/-- Settles O48: by induction on the events, each of which keeps the invariant. -/
theorem everyEventKeepsTheInvariant : Obligations.EveryEventKeepsTheInvariant := by
  intro es
  induction es with
  | nil => exact fun s h => ⟨s, rfl, h⟩
  | cons e es ih =>
    intro s h
    obtain ⟨s', happly, h'⟩ := e.apply_keeps_inv h
    rw [runEvents_cons happly]
    exact ih s' h'

/-- What a fault holds fast: `FAULT`, `PC`, the registers, `I`, the stack and the visible display. -/
def State.engine (s : State) : FaultReg × Word × Vector Byte 16 × Word × Fin 16 × Vector Word 16 × Plane :=
  (s.fault, s.pc, s.v, s.i, s.sp, s.stack, s.disp)

/-- On a faulted machine a Cycle does nothing, and no host operation writes what the fault holds fast. -/
theorem Event.apply_of_not_running (e : Event) {s : State} (h : ¬ s.Running) :
    ∃ t, e.apply s = .next t ∧ t.engine = s.engine := by
  cases e with
  | cycle => exact ⟨s, step_of_not_running h, rfl⟩
  | timerSet sel b => cases sel <;> exact ⟨_, rfl, rfl⟩
  | _ => exact ⟨_, rfl, rfl⟩

theorem engine_of_runEvents {es : List Event} {s t : State} (h : ¬ s.Running) (hrun : runEvents es s = .next t) :
    t.engine = s.engine := by
  induction es generalizing s with
  | nil =>
    cases hrun
    rfl
  | cons e es ih =>
    obtain ⟨s', happly, heng⟩ := e.apply_of_not_running h
    have hfault : s'.fault = s.fault := congrArg Prod.fst heng
    rw [runEvents_cons happly] at hrun
    exact (ih (by rwa [State.Running, hfault]) hrun).trans heng

/-- Settles O55: by induction on the events, each of which leaves the machine faulted. -/
theorem aFaultIsFinal : Obligations.AFaultIsFinal := by
  intro es s t h hrun
  simpa only [State.engine, Prod.mk.injEq] using engine_of_runEvents h hrun

end Sys2Proof.Machine
end
